-- ==== Sys2Proof/Word.lean ====
section
/-! DEFINITION. The byte and the queue number. -/

namespace Sys2Proof

/-- A byte of the host bus, the link, a record or the array. -/
abbrev Byte := BitVec 8

/-- A queue number, 0 to 23 (00 'Key figures', 02 R15). -/
abbrev QId := Fin 24

end Sys2Proof
end

