-- ==== Sys2Proof/Syntax.lean ====
section
/-! DEFINITION. The commands: one constructor per row of spec/opcode_table.json, in the table's order. -/

namespace Sys2Proof

/-- What the array did with the operation that completes (log entry 2). -/
inductive ArrayReply where
  /-- It read or wrote the addressed bytes as asked. -/
  | asAsked
  /-- It rejected or lost the operation: a READ delivers these bytes, a WRITE leaves them standing. Bytes
  beyond the operation's length are ignored, missing ones are as asked. -/
  | otherwise (bytes : List Byte)
deriving DecidableEq, Repr

/-- The commands and events of the part. -/
inductive Instr where
  | reset
  | dataWrite (b : Byte)
  | dataRead
  | pstatRead
  | lstatRead
  | pctlOpen (q : QId)
  | pctlRepeat (n : Fin 64)
  | pctlEnd
  | pctlCancel
  | pctlUndefinedCode (code : Byte)
  | octlSelect (q : QId)
  | octlRelease
  | octlReturn
  | octlRewind
  | octlUndefinedCode (code : Byte)
  | qcmdFetch
  | qcmdStore
  | qcmdEnable
  | qcmdDisable
  | qcmdHold
  | qcmdResume
  | qcmdFlush
  | qcmdClearfault
  | qcmdUndefinedCode (code : Byte)
  | modeRun
  | modeStop
  | modeAbort
  | modeConfig
  | modeUndefinedCode (code : Byte)
  | evidRead
  | evqRead
  | evenWrite (v : Byte)
  | evack (code : Byte)
  | lcmdStart
  | lcmdStop
  | lcmdUndefinedCode (code : Byte)
  | arrayOn
  | arrayOff
  | format
  | stampClear
  | cmdUndefinedCode (code : Byte)
  | registerWriteOther (offset : Fin 32) (v : Byte)
  | alert
  | lreqRise
  | lreqFall
  | peerAccept
  | peerReject
  | lackRise
  | lackFall
  | linkBegin
  | inboundDataByte (b : Byte)
  | inboundEnd
  | inboundAbort
  | strayByte (control : Bool) (b : Byte)
  | lstbFall
  | linkTimeout
  | idleGrantExpiry
  | stampTick
  | refreshTimerExpiry
  | confirmation
  | accessCompletion (r : ArrayReply)
  | refreshCompletion
  | startCloseAllDone
  | startRefreshDone
  | recoveryCloseAllDone
  | reissueCompletion (r : ArrayReply)
  | registerReadOther (offset : Fin 32)
deriving DecidableEq, Repr

end Sys2Proof
end

