-- ==== Sys2Proof/Decode.lean ====
section
/-! DEFINITION. Words to commands. The table of this block (spec/opcode_table.json) gives no row any bits, so
no word spells a command. Beside it, which register write a row is (11 Table 11-1), and back. -/

namespace Sys2Proof

/-- The command a word of the table's bits spells: none, for no row has bits. -/
def decodeTableWord (_nbits _w : Nat) : Option Instr := none

/-- 11 Table 11-1, 04 Table 4-1, 05 Table 5-1, 11 Table 11-3, 09 Table 9-1, 06 Table 6-2, 11 R171: the offset and the byte
of the write that a row is; none for a row that is no write. -/
def Instr.writeOf : Instr → Option (Fin 32 × Byte)
  | .dataWrite b => some (0x00, b)
  | .pctlOpen q => some (0x01, BitVec.ofNat 8 (0x60 + q.val))
  | .pctlRepeat n => some (0x01, BitVec.ofNat 8 n.val)
  | .pctlEnd => some (0x01, 0x40)
  | .pctlCancel => some (0x01, 0x41)
  | .pctlUndefinedCode c => some (0x01, c)
  | .octlSelect q => some (0x02, BitVec.ofNat 8 (0x20 + q.val))
  | .octlRelease => some (0x02, 0x01)
  | .octlReturn => some (0x02, 0x02)
  | .octlRewind => some (0x02, 0x03)
  | .octlUndefinedCode c => some (0x02, c)
  | .qcmdFetch => some (0x12, 0x01)
  | .qcmdStore => some (0x12, 0x02)
  | .qcmdEnable => some (0x12, 0x03)
  | .qcmdDisable => some (0x12, 0x04)
  | .qcmdHold => some (0x12, 0x05)
  | .qcmdResume => some (0x12, 0x06)
  | .qcmdFlush => some (0x12, 0x07)
  | .qcmdClearfault => some (0x12, 0x08)
  | .qcmdUndefinedCode c => some (0x12, c)
  | .modeRun => some (0x13, 0x01)
  | .modeStop => some (0x13, 0x02)
  | .modeAbort => some (0x13, 0x03)
  | .modeConfig => some (0x13, 0x04)
  | .modeUndefinedCode c => some (0x13, c)
  | .evenWrite v => some (0x16, v)
  | .evack c => some (0x17, c)
  | .lcmdStart => some (0x18, 0x01)
  | .lcmdStop => some (0x18, 0x02)
  | .lcmdUndefinedCode c => some (0x18, c)
  | .arrayOn => some (0x19, 0x01)
  | .arrayOff => some (0x19, 0x02)
  | .format => some (0x19, 0x03)
  | .stampClear => some (0x19, 0x04)
  | .cmdUndefinedCode c => some (0x19, c)
  | .registerWriteOther o v => some (o, v)
  | .reset | .dataRead | .pstatRead | .lstatRead | .evidRead | .evqRead | .alert | .lreqRise | .lreqFall
  | .peerAccept | .peerReject | .lackRise | .lackFall | .linkBegin | .inboundDataByte _ | .inboundEnd
  | .inboundAbort | .strayByte _ _ | .lstbFall | .linkTimeout | .idleGrantExpiry | .stampTick | .refreshTimerExpiry
  | .confirmation | .accessCompletion _ | .refreshCompletion | .startCloseAllDone | .startRefreshDone
  | .recoveryCloseAllDone | .reissueCompletion _ | .registerReadOther _ => none

/-- 04 Table 4-1. -/
def rowOfPctl (c : Byte) : Instr :=
  if h : c.toNat < 64 then .pctlRepeat ⟨c.toNat, h⟩
  else if c = 0x40 then .pctlEnd
  else if c = 0x41 then .pctlCancel
  else if h : 0x60 ≤ c.toNat ∧ c.toNat ≤ 0x77 then .pctlOpen ⟨c.toNat - 0x60, by omega⟩
  else .pctlUndefinedCode c

/-- 05 Table 5-1. -/
def rowOfOctl (c : Byte) : Instr :=
  if c = 0x01 then .octlRelease
  else if c = 0x02 then .octlReturn
  else if c = 0x03 then .octlRewind
  else if h : 0x20 ≤ c.toNat ∧ c.toNat ≤ 0x37 then .octlSelect ⟨c.toNat - 0x20, by omega⟩
  else .octlUndefinedCode c

/-- The row that a code names: that of the listed codes 1, 2, … at its place, else the row for undefined codes. -/
def rowOfCode (listed : List Instr) (undefinedCode : Byte → Instr) (c : Byte) : Instr :=
  if c.toNat = 0 then undefinedCode c else listed.getD (c.toNat - 1) (undefinedCode c)

/-- 11 Table 11-1: the row that a write of a byte at an offset is. -/
def rowOfWrite (o : Fin 32) (v : Byte) : Instr :=
  match o.val with
  | 0x00 => .dataWrite v
  | 0x01 => rowOfPctl v
  | 0x02 => rowOfOctl v
  | 0x12 =>
    rowOfCode [.qcmdFetch, .qcmdStore, .qcmdEnable, .qcmdDisable, .qcmdHold, .qcmdResume, .qcmdFlush, .qcmdClearfault]
      .qcmdUndefinedCode v
  | 0x13 => rowOfCode [.modeRun, .modeStop, .modeAbort, .modeConfig] .modeUndefinedCode v
  | 0x16 => .evenWrite v
  | 0x17 => .evack v
  | 0x18 => rowOfCode [.lcmdStart, .lcmdStop] .lcmdUndefinedCode v
  | 0x19 => rowOfCode [.arrayOn, .arrayOff, .format, .stampClear] .cmdUndefinedCode v
  | _ => .registerWriteOther o v

end Sys2Proof
end

