-- ==== Sys2Proof/Config.lean ====
section
/-! DEFINITION. What the part fixes once for all, and the one free value. -/

namespace Sys2Proof.Config

/-- 01 R1: bytes of a block. -/
def blockBytes : Nat := 256

/-- 01 R1: the first offset of the payload area, past the link word. -/
def payloadStart : Nat := 4

/-- 01 R1: the 3-byte value that names no block. -/
def noneBlock : Nat := 0xFFFFFF

/-- 01 R5, R7: the greatest payload length. -/
def maxPayload : Nat := 16384

/-- 02 R15: the greatest records count. -/
def maxRecords : Nat := 65535

/-- 02 R15: the greatest block limit. -/
def maxBlockLimit : Nat := 1048575

/-- 04 R64, 05 R82: capacity of the push staging FIFO and of the pop FIFO. -/
def fifoBytes : Nat := 64

/-- 06 R112, R116: capacity of the link out-buffer and in-buffer. -/
def linkBufBytes : Nat := 32

/-- 04 R71, 05 R87: the longest burst. -/
def burstBytes : Nat := 32

/-- 03 R40, R43: capacity of the free cache. -/
def cacheBlocks : Nat := 8

/-- 03 R40: capacity of the release list. -/
def releaseEntries : Nat := 4

/-- 03 R44: the low mark of available cache blocks. -/
def cacheLowMark : Nat := 4

/-- 08 R141: capacity of the unconfirmed list. -/
def unconfirmedMax : Nat := 4

/-- 08 R139: the greatest refresh debt. -/
def maxDebt : Nat := 8

/-- 08 R144: the replay count at which a further strike is an array fault. -/
def maxReplay : Nat := 3

/-- 07 R136: the greatest passed-over count. -/
def maxPassed : Nat := 4

/-- 11 R166: what IDENT reads. -/
def ident : Byte := 0x5B

/-- 06 R102: reference clocks in one unit of TIMEOUT. -/
def timeoutUnit : Nat := 256

/-- 08 R139: reference clocks in one unit of REFRESH_INTERVAL. -/
def refreshUnit : Nat := 16

/-- FREE VALUE (log entry 1): the byte the array holds at an address that nothing has written since
its contents were last unknown (01 R1, 09 R149). The first argument counts those occasions. -/
opaque arrayByte : Nat → Nat → Byte

end Sys2Proof.Config
end

