-- ==== Sys2Proof/Machine/State.lean ====
section
/-! DEFINITION. The state of the part: plain data, every piece the spec names (INVENTORY.md, '## State'). -/

namespace Sys2Proof.Machine

/-! ### Positions, runs and segments -/

/-- 01 R12: a position in a chain, offset 4 to 256. -/
structure Pos where
  block : Nat
  offset : Nat
deriving DecidableEq, Repr

/-- 05 R82: the blocks from a record's header block to the block of the fetch position. -/
structure Run where
  first : Nat
  prev : Option Nat
  count : Nat
deriving DecidableEq, Repr

/-- 03 R40: a run of blocks handed to the pool as a unit. -/
structure Segment where
  first : Nat
  last : Nat
  count : Nat
deriving DecidableEq, Repr

/-- 05 R94, 02 R24: what a remove claim carries. -/
structure Removal where
  length : Nat
  endPos : Pos
  next : Option Pos
  run : Run
deriving DecidableEq, Repr

/-- 01 R5: the fields of a record header. -/
structure Header where
  length : Nat
  tag : Byte
  flags : Byte
  stamp : BitVec 32
  seq : BitVec 16
deriving DecidableEq, Repr

/-- 01 R3: how a reader classifies a link word. -/
inductive LinkClass where
  | chainFault
  | names (block : Nat)
  | none
deriving DecidableEq, Repr

/-! ### Agents -/

/-- 02 R18: who builds a record: the Push Engine or the Link Engine's inbound side. -/
inductive Producer where
  | push | link
deriving DecidableEq, Repr

/-- 02 R22: who reads a record out: the Pop Engine or the Link Engine's outbound side. -/
inductive Consumer where
  | pop | link
deriving DecidableEq, Repr

/-- 07 R127: the client slots. -/
inductive Client where
  | pool | pushw | lnkw | popr | linkr
deriving DecidableEq, Repr

/-! ### The Queue Table (02) -/

/-- 02 section 2.2. -/
inductive QState where
  | off | active | held | faulted
deriving DecidableEq, Repr

/-- 02 R15: a binding. -/
inductive Binding where
  | window | link
deriving DecidableEq, Repr

/-- 02 R15: the overflow policy. -/
inductive Policy where
  | refuse | discardOldest
deriving DecidableEq, Repr

/-- 02 R15: why a queue is FAULTED. -/
inductive FaultReason where
  | chain | array
deriving DecidableEq, Repr

/-- 02 R25: the claims the Queue Table answers in arrival order. `wanted` and `noticed` say whether the
engine still acts on the answer (05 R92, 06 R108). -/
inductive Claim where
  | openRec (p : Producer)
  | extension (p : Producer)
  | join (p : Producer) (block : Nat)
  | commit (p : Producer) (length : Nat) (header endPos : Pos)
  | cancel (p : Producer)
  | pin (c : Consumer) (wanted : Bool)
  | unpin (c : Consumer) (noticed : Bool)
  | remove (c : Consumer) (r : Removal)
  | discard (p : Producer)
deriving DecidableEq, Repr

/-- 02 R34, R35: what a running discard does next. -/
inductive DiscardStage where
  /-- read the oldest record's header -/
  | header
  /-- walk its payload -/
  | walk
  /-- read the link word of its end block for the next header -/
  | endLink
  /-- its head advance hands over a segment -/
  | removal (r : Removal)
deriving DecidableEq, Repr

/-- 02 R35: a running discard. -/
structure Discard where
  producer : Producer
  stage : DiscardStage
  length : Nat
  fetch : Pos
  unfetched : Nat
  run : Run
deriving DecidableEq, Repr

/-- 02 R15, R25: what a queue's claim hold is set for. -/
inductive Work where
  | idle
  | discard (d : Discard)
  | remove (c : Consumer) (r : Removal)
  | cancel (p : Producer)
  | flush
deriving DecidableEq, Repr

/-- 02 R24 to R26: where a queue's waiting handover waits. -/
inductive HandoverWait where
  | none | atPool | forLinkWord
deriving DecidableEq, Repr

/-- 02 R15: a queue descriptor. The last six fields are what the Queue Table keeps beside the table of R15. -/
structure Queue where
  state : QState
  producer : Binding
  consumer : Binding
  stamp : Bool
  number : Bool
  policy : Policy
  blockLimit : Nat
  watermark : Nat
  records : Nat
  payload : Nat
  blocks : Nat
  head : Option Pos
  tail : Option Pos
  nextSeq : BitVec 16
  discards : Nat
  pin : Option Consumer
  openRec : Option Producer
  fault : Option FaultReason
  /-- 01 R13, 02 R19: the last block of the chain. -/
  tailBlock : Option Nat
  /-- 02 R21: the blocks joined for the open record behind the tail position's block: first and count. -/
  joined : Option (Nat × Nat)
  /-- 02 R24: the header position carried by the commit that followed the head record. -/
  second : Option Pos
  /-- 02 R15, R25: the claim hold. -/
  work : Work
  wait : HandoverWait
  /-- 02 R25: the held claims, oldest first. A claim made with the hold clear is answered at its event. -/
  claims : List Claim
deriving DecidableEq, Repr

/-- 02 R37: the stamp counter and its prescaler. -/
structure Stamp where
  counter : BitVec 32
  prescale : Nat
  left : Nat
deriving DecidableEq, Repr

/-! ### The Block Pool (03) -/

/-- 03 R40. -/
inductive PoolState where
  | unformatted | formatting | formatted | broken
deriving DecidableEq, Repr

/-- 03 R43: a block of the free cache, available or promised. -/
structure CacheBlock where
  block : Nat
  promised : Option Producer
deriving DecidableEq, Repr

/-- 03 R51: a handover not yet taken: a queue's (its segment is formed when it is taken, log entry 11) or a
producer's single release. -/
inductive Handover where
  | ofQueue (q : QId)
  | single (block : Nat) (p : Producer)
deriving DecidableEq, Repr

/-- 03 R40. The cache lists its top block first; the other lists their oldest entry first. -/
structure Pool where
  state : PoolState
  chainHead : Option Nat
  chainCount : Nat
  cache : List CacheBlock
  release : List Segment
  waitingAllocs : List Producer
  waiting : List Handover
  progress : Nat
deriving DecidableEq, Repr

/-! ### Producers (04, 06) -/

/-- 04 R72: the stages of a block step. -/
inductive StepStage where
  /-- the extension claim awaits its answer -/
  | extension
  /-- the allocation waits in the pool -/
  | allocation
  /-- the pool has promised this block -/
  | granted (block : Nat)
  /-- the pool has answered EXHAUSTED -/
  | exhausted
  /-- the join claim for this block awaits its answer -/
  | join (block : Nat)
  /-- the discard request awaits its answer or the discard runs -/
  | discard
  /-- the discard has ended successfully -/
  | retry
  /-- the record was dropped while this block awaited its join (04 R78) -/
  | handBack (block : Nat)
deriving DecidableEq, Repr

/-- 04 R72: a block step, for a header (04 R70) or for payload. -/
structure BlockStep where
  forHeader : Bool
  stage : StepStage
deriving DecidableEq, Repr

/-- 04 R59: the answer to the open claim, and 05 R82: to the pin claim. -/
inductive Answer where
  | awaited | taken
deriving DecidableEq, Repr

/-- 04 R59, 06 R116: the part of a producer's context that its writer works on. -/
structure Writer where
  queue : Option QId
  openAns : Option Answer
  tag : Option Byte
  header : Option Pos
  write : Option Pos
  /-- 04 R72: (from block, to block) of a link word to be written. -/
  owed : Option (Nat × Nat)
  step : Option BlockStep
  /-- the staging FIFO, or the in-buffer -/
  buf : List Byte
  /-- 04 R69: the reservation has been posted. -/
  reserved : Bool
  /-- 04 R75: the header patch has been posted. -/
  patched : Bool
  /-- a commit or cancel claim is made and not answered -/
  claimed : Bool
  /-- 04 R78: the Queue Table has dropped the record. -/
  dropped : Bool
deriving DecidableEq, Repr

/-- 04 Table 4-2. -/
inductive PushState where
  | idle | awaitTag | filling | committing | cancelling
deriving DecidableEq, Repr

/-- 04 Table 4-3. -/
inductive PushResult where
  | none | opened | badMode | badState | badBinding | busy | full | committed | cancelled | tooLong | refused
  | dropped | arrayError
deriving DecidableEq, Repr

/-- 04 R59: the push context. -/
structure Push where
  state : PushState
  w : Writer
  accepted : Nat
  armed : Option Nat
  remainder : Option (Byte × Nat)
  lost : Bool
  repeated : Bool
  last : PushResult
deriving DecidableEq, Repr

/-! ### Consumers (05, 06) -/

/-- 05 R93, R94, 06 R114, R115: where the end of a record's reading stands. -/
inductive Walk where
  | none
  /-- moving the fetch position to the record's end; for a rejected record, the flag write is to be posted -/
  | walking
  /-- the end block's link word is to be read -/
  | needEndLink
  /-- that read, or the flag write, is posted -/
  | posted
  /-- the end is known; the remove claim is to be made -/
  | ready (next : Option Pos)
  /-- the remove or unpin claim is made -/
  | claimed
deriving DecidableEq, Repr

/-- 05 R82, 06 R112: the part of a consumer's context that its reader works on. -/
structure Reader where
  queue : Option QId
  header : Option Pos
  hsize : Nat
  hdr : Header
  fetch : Option Pos
  unfetched : Nat
  /-- payload bytes not yet delivered (OREM), or not yet offered to the peer -/
  remaining : Nat
  /-- the pop FIFO, or the out-buffer -/
  buf : List Byte
  run : Option Run
  unwanted : Bool
  walk : Walk
deriving DecidableEq, Repr

/-- 05 Table 5-2. -/
inductive PopState where
  | idle | loading | ready | releasing
deriving DecidableEq, Repr

/-- 05 Table 5-3. -/
inductive PopResult where
  | none | selected | badMode | badState | badBinding | empty | busy | notReady | badCode | rewound | returned
  | released | chainFault | arrayError
deriving DecidableEq, Repr

/-- 05 R82: the pop context. -/
structure Pop where
  state : PopState
  r : Reader
  pinAns : Option Answer
  last : PopResult
deriving DecidableEq, Repr

/-! ### The Record Link (06) -/

/-- 06 R105, Table 6-3. -/
inductive LinkState where
  | off | idle | sending | granted | receiving | reclaiming | fault
deriving DecidableEq, Repr

/-- 06 R105. -/
inductive Turn where
  | forward | reverse
deriving DecidableEq, Repr

/-- 06 Table 6-4. -/
inductive LinkResult where
  | none | started | badMode | badState | busy | badBinding | badCode | stopped | accepted | rejected | limitHold
  | chainFault | timeout | arrayError
deriving DecidableEq, Repr

/-- 06 R112. -/
inductive OutState where
  | idle | loading | streaming | settling
deriving DecidableEq, Repr

/-- 06 Table 6-1: the bytes of the frame, and ABORT. -/
inductive FrameItem where
  | beginByte | tag | lengthHigh | lengthLow | payload | endByte | abortByte
deriving DecidableEq, Repr

/-- 06 R103. -/
inductive Verdict where
  | accept | reject
deriving DecidableEq, Repr

/-- 06 R112: the outbound context. -/
structure Outbound where
  state : OutState
  r : Reader
  /-- the next byte of the frame to be offered -/
  frame : Option FrameItem
  verdict : Option Verdict
  /-- 06 R114, R115: the claim that settles the record has been answered. -/
  settled : Bool
deriving DecidableEq, Repr

/-- 06 R116. -/
inductive InState where
  | idle | filling | committing | cancelling | discarding
deriving DecidableEq, Repr

/-- 06 R116: the inbound context. -/
structure Inbound where
  state : InState
  w : Writer
  frameBytes : Nat
  lengthHigh : Option Byte
  declared : Option Nat
  held : Option Byte
  verdict : Option Verdict
  /-- 06 R119: the cancel is done and the frame's END or ABORT is awaited. -/
  cancelDone : Bool
deriving DecidableEq, Repr

/-- 06 R99: the lines the part drives; none where it does not drive them. -/
structure Lines where
  ld : Option Byte
  lstb : Option Bool
  lcmd : Option Bool
  lack : Option Bool
  lrj : Option Bool
  lgnt : Bool
deriving DecidableEq, Repr

/-- 06 R101: what kind of byte is being received. -/
inductive ByteKind where
  | plain | endByte | abortByte
deriving DecidableEq, Repr

/-- 06 R101: the handshake as receiver. -/
inductive Receive where
  | complete
  | withheld (k : ByteKind)
  | acked (k : ByteKind)
deriving DecidableEq, Repr

/-- 06 R102, R110: what the link timer measures. -/
inductive TimerUse where
  | lackRise | lackFall | lstbFall | nextLstb | lreqFall | idleGrant
deriving DecidableEq, Repr

/-- 06 R102: the running link timer. -/
structure LinkTimer where
  use : TimerUse
  left : Nat
deriving DecidableEq, Repr

/-- 06 R105 and the handshakes of R100, R101, R111. -/
structure Link where
  state : LinkState
  turn : Turn
  grants : Nat
  retryCount : Nat
  retryRecord : Option Pos
  drainQ : Option QId
  fillQ : Option QId
  retryLimit : Nat
  quota : Nat
  timeout : Nat
  sent : Nat
  received : Nat
  rejects : Nat
  out : Outbound
  inb : Inbound
  last : LinkResult
  lines : Lines
  lreq : Bool
  timer : Option LinkTimer
  /-- 06 R100: the byte in progress as sender, and whether its LACK has risen. -/
  sending : Option (FrameItem × Bool)
  /-- 06 R113: ABORT is offered at the completion of the byte in progress. -/
  abortDue : Bool
  receive : Receive
  /-- 06 R111 -/
  tooLate : Bool
  lreqFell : Bool
deriving DecidableEq, Repr

/-! ### The Array Sequencer (07, 08) -/

/-- 07 R124. -/
structure ArrayConfig where
  banks : Nat
  rows : Nat
  interval : Nat
  urgency : Nat
  window : Nat
  tOpen : Nat
  tClose : Nat
  tBurst : Nat
deriving DecidableEq, Repr

/-- 07 R127. -/
inductive SeqState where
  | off | starting | ready | accessing | refreshing | recovering | fault
deriving DecidableEq, Repr

/-- 07 R133. -/
inductive AccessKind where
  | read | write
deriving DecidableEq, Repr

/-- What a client posted its request for (R2, R44, R50, R56, R69 to R75, R85 to R93, R35, R112 to R115). -/
inductive Purpose where
  | fetch | releaseWrite | formatWrite
  | reservation | burst | linkWord | patch
  | discardHeader | discardLink | discardEndLink
  | headerRead | payloadRead | linkRead | endLinkRead | flagWrite
deriving DecidableEq, Repr

/-- 07 R133: a request. -/
structure Request where
  kind : AccessKind
  block : Nat
  offset : Nat
  length : Nat
  data : List Byte
  passed : Nat
  purpose : Purpose
deriving DecidableEq, Repr

/-- 07 section 7.6: a client slot. -/
inductive Slot where
  | empty
  | waiting (r : Request)
  | issued (r : Request)
  | unconfirmed (r : Request)
deriving DecidableEq, Repr

/-- 07 R127: the five client slots. -/
structure Slots where
  pool : Slot
  pushw : Slot
  lnkw : Slot
  popr : Slot
  linkr : Slot
deriving DecidableEq, Repr

/-- 08 R141: the operation of an entry. -/
inductive Operation where
  | request (c : Client) (r : Request)
  | refresh
deriving DecidableEq, Repr

/-- 08 R141: an entry of the unconfirmed list or of the replay list. -/
structure Entry where
  op : Operation
  bytes : List Byte
  replays : Nat
  window : Nat
deriving DecidableEq, Repr

/-- 07 R127: what is in progress on the array bus. -/
inductive ArrayOp where
  | access (c : Client)
  | refresh
  | startCloseAll
  | startRefresh
  | recoveryCloseAll
  | reissue (e : Entry)
deriving DecidableEq, Repr

/-- 11 Table 11-2: the last command result of GSTAT. -/
inductive CmdResult where
  | none | ok | badMode | badState | badCode
deriving DecidableEq, Repr

/-- 07 R127. -/
structure Seq where
  config : ArrayConfig
  state : SeqState
  bankTable : List (Option Nat)
  slots : Slots
  waitList : List Client
  /-- the operation in progress and the clocks left of it (07 R137, 08 R140) -/
  op : Option (ArrayOp × Nat)
  unconfirmed : List Entry
  replay : List Entry
  alertPending : Bool
  debt : Nat
  timer : Option Nat
  alerts : Nat
  lastCommand : CmdResult
deriving DecidableEq, Repr

/-- 01 R1: the array's contents, by block x 256 + offset; strictly rising addresses (`Memory.wf`).
`epoch` counts the occasions at which the contents became unknown (log entry 1). -/
structure ArrayMem where
  cells : List Host.Cell
  epoch : Nat
deriving DecidableEq, Repr

/-! ### Modes, events, window (09, 10, 11) -/

/-- 09 R149. -/
inductive Mode where
  | config | run | stopping | formatting | halted
deriving DecidableEq, Repr

/-- 09 R149: the stop in progress. -/
inductive Stop where
  | gentle | abort
deriving DecidableEq, Repr

/-- 09 R149. -/
inductive ModeResult where
  | none | ok | badMode | badState | badCode
deriving DecidableEq, Repr

/-- 09 R149. -/
structure ModeCtl where
  mode : Mode
  stop : Option Stop
  last : ModeResult
deriving DecidableEq, Repr

/-- 10 R158: the fifteen global causes. -/
inductive GlobalCause where
  | arrayFault | poolFault | refreshOverrun | linkTimeout | linkRejectLimit | linkProtocol | pushRefused
  | pushTooLong | pushOverrun | pushProtocol | popUnderrun | popPastEnd | formatDone | modeDone | arrayAlert
deriving DecidableEq, Repr

/-- 10 R158: the per-queue causes that are held as marks (WATERMARK is a level, R163). -/
inductive QueueCause where
  | queueFault | queueDiscard | nonempty
deriving DecidableEq, Repr

/-- 10 R158 to R164. -/
structure Events where
  global : Vector Bool 15
  queueFault : Vector Bool 24
  queueDiscard : Vector Bool 24
  nonempty : Vector Bool 24
  rejectQueue : QId
  reportCode : Byte
  reportQueue : Byte
  ackQueue : Byte
  /-- EVEN: class enables in bits 4-0, master in bit 7 -/
  even : Byte
deriving DecidableEq, Repr

/-- 11 R167. -/
inductive ViewMark where
  | status | result
deriving DecidableEq, Repr

/-- 11 Table 11-3. -/
inductive QRes where
  | ok | pending | busy | badState | badValue | badField | badQueue | badMode | badBinding | notEmpty
deriving DecidableEq, Repr

/-- 11 R166: the Register Window. -/
structure Window where
  scratch : Byte
  qsel : Byte
  qfld : Byte
  qv0 : Byte
  qv1 : Byte
  qv2 : Byte
  qres : QRes
  pushView : ViewMark
  linkView : ViewMark
  /-- D7 to D0 as driven in the last access (log entry 9) -/
  dataOut : Option Byte
deriving DecidableEq, Repr

/-! ### The whole -/

/-- The state of the part and the queue of commands that wait. -/
structure State where
  window : Window
  events : Events
  modeCtl : ModeCtl
  stamp : Stamp
  queues : Vector Queue 24
  pool : Pool
  push : Push
  pop : Pop
  link : Link
  seq : Seq
  array : ArrayMem
  pending : List Instr
deriving DecidableEq, Repr

/-- Why a step stops with a fault. -/
inductive Fault where
  /-- Raised by ACCESS_COMPLETION and REISSUE_COMPLETION when the access names a block number at or above
  TOTAL_BLOCKS (01 R1). Safe: no such block exists, and no reachable state holds such a request (log entry 18). -/
  | noSuchBlock
deriving DecidableEq, Repr

/-- Why a command has no meaning. -/
inductive Refusal where
  /-- Raised by exec's arm of a command without a meaning; no arm is such. Safe. -/
  | notModelled (mnemonic : String)
deriving DecidableEq, Repr

/-- The outcome of a command. -/
abbrev Outcome := Host.Outcome State Fault Refusal

/-! ### One update per part of the state -/

def State.withWindow (s : State) (x : Window) : State := { s with window := x }
def State.withEvents (s : State) (x : Events) : State := { s with events := x }
def State.withModeCtl (s : State) (x : ModeCtl) : State := { s with modeCtl := x }
def State.withStamp (s : State) (x : Stamp) : State := { s with stamp := x }
def State.withQueues (s : State) (x : Vector Queue 24) : State := { s with queues := x }
def State.withPool (s : State) (x : Pool) : State := { s with pool := x }
def State.withPush (s : State) (x : Push) : State := { s with push := x }
def State.withPop (s : State) (x : Pop) : State := { s with pop := x }
def State.withLink (s : State) (x : Link) : State := { s with link := x }
def State.withSeq (s : State) (x : Seq) : State := { s with seq := x }
def State.withArray (s : State) (x : ArrayMem) : State := { s with array := x }
def State.withPending (s : State) (x : List Instr) : State := { s with pending := x }

/-! ### Reset values -/

/-- 02 R15. -/
def Queue.reset : Queue :=
  { state := .off, producer := .window, consumer := .window, stamp := false, number := false, policy := .refuse
    blockLimit := 64, watermark := 0, records := 0, payload := 0, blocks := 0, head := none, tail := none
    nextSeq := 0, discards := 0, pin := none, openRec := none, fault := none, tailBlock := none, joined := none
    second := none, work := .idle, wait := .none, claims := [] }

/-- 04 R59, 06 R116: a writer with no record. -/
def Writer.reset : Writer :=
  { queue := none, openAns := none, tag := none, header := none, write := none, owed := none, step := none
    buf := [], reserved := false, patched := false, claimed := false, dropped := false }

/-- 04 R59. -/
def Push.reset : Push :=
  { state := .idle, w := Writer.reset, accepted := 0, armed := none, remainder := none, lost := false
    repeated := false, last := .none }

/-- 05 R82: every presented field reads 0. -/
def Header.reset : Header := { length := 0, tag := 0, flags := 0, stamp := 0, seq := 0 }

/-- 05 R82, 06 R112. -/
def Reader.reset : Reader :=
  { queue := none, header := none, hsize := 4, hdr := Header.reset, fetch := none, unfetched := 0, remaining := 0
    buf := [], run := none, unwanted := false, walk := .none }

/-- 05 R82. -/
def Pop.reset : Pop := { state := .idle, r := Reader.reset, pinAns := none, last := .none }

/-- 06 R112. -/
def Outbound.reset : Outbound :=
  { state := .idle, r := Reader.reset, frame := none, verdict := none, settled := false }

/-- 06 R116. -/
def Inbound.reset : Inbound :=
  { state := .idle, w := Writer.reset, frameBytes := 0, lengthHigh := none, declared := none, held := none
    verdict := none, cancelDone := false }

/-- 06 R99: the lines as the sender leaves them at rest, LGNT low. -/
def Lines.rest : Lines :=
  { ld := some 0, lstb := some false, lcmd := some false, lack := none, lrj := none, lgnt := false }

/-- 06 R105; LREQ is an input, low here (log entry 23). -/
def Link.reset : Link :=
  { state := .off, turn := .forward, grants := 0, retryCount := 0, retryRecord := none, drainQ := none
    fillQ := none, retryLimit := 3, quota := 4, timeout := 200, sent := 0, received := 0, rejects := 0
    out := Outbound.reset, inb := Inbound.reset, last := .none, lines := Lines.rest, lreq := false, timer := none
    sending := none, abortDue := false, receive := .complete, tooLate := false, lreqFell := false }

/-- 03 R40. -/
def Pool.reset : Pool :=
  { state := .unformatted, chainHead := none, chainCount := 0, cache := [], release := [], waitingAllocs := []
    waiting := [], progress := 0 }

/-- 07 R124. -/
def ArrayConfig.reset : ArrayConfig :=
  { banks := 4, rows := 4096, interval := 487, urgency := 6, window := 16, tOpen := 3, tClose := 3, tBurst := 2 }

/-- 07 R127: every slot EMPTY. -/
def Slots.empty : Slots := { pool := .empty, pushw := .empty, lnkw := .empty, popr := .empty, linkr := .empty }

/-- 07 R127, 08 R139, R143, 11 R171. -/
def Seq.reset : Seq :=
  { config := ArrayConfig.reset, state := .off, bankTable := [none, none, none, none], slots := Slots.empty
    waitList := [], op := none, unconfirmed := [], replay := [], alertPending := false, debt := 0, timer := none
    alerts := 0, lastCommand := .none }

/-- 02 R37. -/
def Stamp.reset : Stamp := { counter := 0, prescale := 50, left := 50 }

/-- 09 R149. -/
def ModeCtl.reset : ModeCtl := { mode := .config, stop := none, last := .none }

/-- 10 R158, R160, R164; the reported code is log entry 24. -/
def Events.reset : Events :=
  { global := Vector.replicate 15 false, queueFault := Vector.replicate 24 false
    queueDiscard := Vector.replicate 24 false, nonempty := Vector.replicate 24 false, rejectQueue := 0
    reportCode := 0, reportQueue := 0xFF, ackQueue := 0xFF, even := 0 }

/-- 11 R166. -/
def Window.reset : Window :=
  { scratch := 0, qsel := 0, qfld := 0, qv0 := 0, qv1 := 0, qv2 := 0, qres := .ok, pushView := .status
    linkView := .status, dataOut := none }

/-- The part right after reset, no command waiting. -/
def State.reset : State :=
  { window := Window.reset, events := Events.reset, modeCtl := ModeCtl.reset, stamp := Stamp.reset
    queues := Vector.replicate 24 Queue.reset, pool := Pool.reset, push := Push.reset, pop := Pop.reset
    link := Link.reset, seq := Seq.reset, array := { cells := [], epoch := 0 }, pending := [] }

end Sys2Proof.Machine
end

