-- ==== Sys2Proof/Machine/Ops.lean ====
section
/-! DEFINITION. The named operations over the array, the descriptors, the contexts, the marks and the client
slots: byte order, link words and headers (01), positions (01 R9 to R14), the array's mapping (07 R126), raising
and clearing a cause (10 R158), posting a request (07 R133), making a claim (02 R25). -/

namespace Sys2Proof.Machine

/-! ### Byte order: multi-byte fields are stored most significant byte first (00 'Sizes and offsets') -/

/-- Byte i of a number, i = 0 the least significant. -/
def byteOf (n i : Nat) : Byte := BitVec.ofNat 8 (n / 256 ^ i)

def be16 (n : Nat) : List Byte := [byteOf n 1, byteOf n 0]
def be24 (n : Nat) : List Byte := [byteOf n 2, byteOf n 1, byteOf n 0]
def be32 (n : Nat) : List Byte := [byteOf n 3, byteOf n 2, byteOf n 1, byteOf n 0]

/-- The number that bytes spell, most significant first. -/
def natOfBytes (bs : List Byte) : Nat := bs.foldl (fun n b => n * 256 + b.toNat) 0

/-! ### Link words (01 R2, R3, Table 1-1) -/

/-- 01 Table 1-1: the check byte. -/
def checkByte (a b c : Byte) : Byte := ~~~(a ^^^ b ^^^ c)

/-- 01 R2: the four bytes that name a block, or none. -/
def linkWord (next : Option Nat) : List Byte :=
  let n := next.getD Config.noneBlock
  [byteOf n 2, byteOf n 1, byteOf n 0, checkByte (byteOf n 2) (byteOf n 1) (byteOf n 0)]

/-- 01 R3: what a reader makes of a received link word, with `total` = TOTAL_BLOCKS. -/
def classifyLink (total : Nat) (bs : List Byte) : LinkClass :=
  match bs with
  | [a, b, c, d] =>
    let n := natOfBytes [a, b, c]
    if d = checkByte a b c then
      if n < total then .names n else if n = Config.noneBlock then .none else .chainFault
    else .chainFault
  | _ => .chainFault

/-! ### Record headers (01 R5, Table 1-1) -/

/-- 01 Table 1-1: the header size H of a queue. -/
def headerSize (q : Queue) : Nat := 4 + (if q.stamp then 4 else 0) + (if q.number then 2 else 0)

/-- 01 Table 1-1: the bytes of a header, with the fields the options call for. -/
def headerBytes (q : Queue) (h : Header) : List Byte :=
  be16 h.length ++ [h.tag, h.flags]
    ++ (if q.stamp then be32 h.stamp.toNat else [])
    ++ (if q.number then be16 h.seq.toNat else [])

/-- 01 R5, 05 R86: the fields of a header as read; an absent field is presented as 0. -/
def headerOf (q : Queue) (bs : List Byte) : Header :=
  let rest := bs.drop 4
  { length := natOfBytes (bs.take 2)
    tag := bs.getD 2 0
    flags := bs.getD 3 0
    stamp := if q.stamp then BitVec.ofNat 32 (natOfBytes (rest.take 4)) else 0
    seq := if q.number then BitVec.ofNat 16 (natOfBytes ((if q.stamp then rest.drop 4 else rest).take 2)) else 0 }

/-- 01 Table 1-1: the flag bits. -/
def flagLost : Byte := 0x01
def flagLinked : Byte := 0x02
def flagRetried : Byte := 0x04
def flagRepeated : Byte := 0x08

/-! ### Positions (01 R9 to R12) -/

/-- 01 R9, R11: a header of h bytes fits at offset t. -/
def headerFits (t h : Nat) : Bool := h ≤ Config.blockBytes - t

/-- The position n bytes on in the same block. -/
def Pos.add (p : Pos) (n : Nat) : Pos := { p with offset := p.offset + n }

/-- 01 R1: the first payload-area position of a block. -/
def Pos.start (b : Nat) : Pos := { block := b, offset := Config.payloadStart }

/-! ### The array (01 R1, 07 R126) -/

/-- 01 R1, 07 R124: TOTAL_BLOCKS. -/
def totalBlocks (c : ArrayConfig) : Nat := c.banks * c.rows * 8

/-- 07 R126: the bank of a block. -/
def bankOf (c : ArrayConfig) (b : Nat) : Nat := (b / 8) % c.banks

/-- 07 R126: the row of a block. -/
def rowOf (c : ArrayConfig) (b : Nat) : Nat := b / (8 * c.banks)

/-- 07 R126: the row byte of offset f of a block. -/
def rowByteOf (b f : Nat) : Nat := (b % 8) * 256 + f

/-- The memory key of offset f of block b (log entry 19). -/
def arrayAddr (b f : Nat) : Nat := b * Config.blockBytes + f

/-- The byte listed at an address. -/
def memRead : List Host.Cell → Nat → Option Byte
  | [], _ => none
  | (k, v) :: rest, a => if a = k then some v else memRead rest a

/-- Write one byte, keeping the addresses strictly rising. -/
def memWrite : List Host.Cell → Nat → Byte → List Host.Cell
  | [], a, v => [(a, v)]
  | (k, w) :: rest, a, v =>
    if a < k then (a, v) :: (k, w) :: rest
    else if a = k then (a, v) :: rest
    else (k, w) :: memWrite rest a v

/-- The canonical form: every address is above the bound, and they rise strictly. -/
def memAbove : Nat → List Host.Cell → Bool
  | _, [] => true
  | lo, (k, _) :: rest => decide (lo ≤ k) && memAbove (k + 1) rest

/-- The memory is in its canonical form. -/
def Memory.wf (m : List Host.Cell) : Bool := memAbove 0 m

/-- The byte the array holds: what was written last, or the free value (log entry 1). -/
def arrayByteAt (m : ArrayMem) (a : Nat) : Byte :=
  match memRead m.cells a with
  | some v => v
  | none => Config.arrayByte m.epoch a

/-- n bytes from an address on. -/
def arrayBytes (m : ArrayMem) (a : Nat) : Nat → List Byte
  | 0 => []
  | n + 1 => arrayByteAt m a :: arrayBytes m (a + 1) n

/-- Write bytes from an address on. -/
def arrayPut (cells : List Host.Cell) (a : Nat) : List Byte → List Host.Cell
  | [] => cells
  | b :: bs => arrayPut (memWrite cells a b) (a + 1) bs

/-- 01 R1, 09 R149: the contents become unknown (log entry 1). -/
def arrayUnknown (s : State) : State := s.withArray { cells := [], epoch := s.array.epoch + 1 }

/-- The bytes an operation of `given` bytes moves under the array's reply (log entry 2). -/
def replyBytes (given : List Byte) (r : ArrayReply) : List Byte :=
  match r with
  | .asAsked => given
  | .otherwise bs => (bs ++ given.drop bs.length).take given.length

/-! ### Descriptors -/

/-- The descriptor of a queue. -/
def State.queue (s : State) (q : QId) : Queue := s.queues[q.val]'q.isLt

/-- Replace one descriptor. -/
def State.setQueue (s : State) (q : QId) (x : Queue) : State := s.withQueues (s.queues.set q.val x q.isLt)

/-- Every queue number. -/
def allQueues : List QId :=
  [0, 1, 2, 3, 4, 5, 6, 7, 8, 9, 10, 11, 12, 13, 14, 15, 16, 17, 18, 19, 20, 21, 22, 23]

/-- 02 R15, R25: the claim hold is set while a discard runs or a handover waits. -/
def Queue.held (q : Queue) : Bool :=
  match q.work with
  | .idle => false
  | .discard _ | .remove _ _ | .cancel _ | .flush => true

/-- 02 R36, 10 R163: the WATERMARK condition of a queue. -/
def Queue.atWatermark (q : Queue) : Bool := q.watermark != 0 && decide (q.watermark ≤ q.records)

/-- 02 R25: an engine makes a claim: it joins the queue's claims in arrival order, and is answered at this
event unless the claim hold is set (`claimMicro`). -/
def makeClaim (q : QId) (c : Claim) (s : State) : State :=
  s.setQueue q { s.queue q with claims := (s.queue q).claims ++ [c] }

/-- A saturating count of 16 bits (00 'Counting'). -/
def sat16 (n : Nat) : Nat := min n 65535

/-! ### Causes (10 R158) -/

/-- The mark of a global cause. -/
def GlobalCause.mark : GlobalCause → Fin 15
  | .arrayFault => 0
  | .poolFault => 1
  | .refreshOverrun => 2
  | .linkTimeout => 3
  | .linkRejectLimit => 4
  | .linkProtocol => 5
  | .pushRefused => 6
  | .pushTooLong => 7
  | .pushOverrun => 8
  | .pushProtocol => 9
  | .popUnderrun => 10
  | .popPastEnd => 11
  | .formatDone => 12
  | .modeDone => 13
  | .arrayAlert => 14

/-- Set or clear the mark of a global cause. -/
def setGlobal (c : GlobalCause) (v : Bool) (s : State) : State :=
  s.withEvents { s.events with global := s.events.global.set c.mark.val v c.mark.isLt }

/-- 10 R158: a block raises a global cause; a mark that is set stays set. -/
def raise (c : GlobalCause) (s : State) : State := setGlobal c true s

/-- 10 R161, R162: a global cause is cleared. -/
def clear (c : GlobalCause) (s : State) : State := setGlobal c false s

/-- Set or clear the mark of a per-queue cause. -/
def setQueueCause (c : QueueCause) (q : QId) (v : Bool) (s : State) : State :=
  match c with
  | .queueFault => s.withEvents { s.events with queueFault := s.events.queueFault.set q.val v q.isLt }
  | .queueDiscard => s.withEvents { s.events with queueDiscard := s.events.queueDiscard.set q.val v q.isLt }
  | .nonempty => s.withEvents { s.events with nonempty := s.events.nonempty.set q.val v q.isLt }

/-- 10 R158: a per-queue cause is raised. -/
def raiseQueue (c : QueueCause) (q : QId) (s : State) : State := setQueueCause c q true s

/-- 10 R161, R162: a per-queue cause is cleared. -/
def clearQueue (c : QueueCause) (q : QId) (s : State) : State := setQueueCause c q false s

/-- A global cause is pending. -/
def pendingGlobal (e : Events) (c : GlobalCause) : Bool := e.global[c.mark.val]'c.mark.isLt

/-! ### Client slots (07 R133) -/

def Producer.client : Producer → Client
  | .push => .pushw
  | .link => .lnkw

def Consumer.client : Consumer → Client
  | .pop => .popr
  | .link => .linkr

def Slots.get (x : Slots) : Client → Slot
  | .pool => x.pool
  | .pushw => x.pushw
  | .lnkw => x.lnkw
  | .popr => x.popr
  | .linkr => x.linkr

def Slots.set (x : Slots) (c : Client) (v : Slot) : Slots :=
  match c with
  | .pool => { x with pool := v }
  | .pushw => { x with pushw := v }
  | .lnkw => { x with lnkw := v }
  | .popr => { x with popr := v }
  | .linkr => { x with linkr := v }

/-- The request a slot holds. -/
def Slot.request : Slot → Option Request
  | .empty => none
  | .waiting r => some r
  | .issued r => some r
  | .unconfirmed r => some r

/-- The slot of a client. -/
def State.slot (s : State) (c : Client) : Slot := s.seq.slots.get c

/-- A client has no request. -/
def slotFree (s : State) (c : Client) : Bool := (s.slot c).request.isNone

/-- A client's request is for this purpose. -/
def slotHolds (s : State) (c : Client) (p : Purpose) : Bool :=
  match (s.slot c).request with
  | some r => r.purpose == p
  | none => false

/-- Replace a slot. -/
def State.setSlot (s : State) (c : Client) (v : Slot) : State :=
  s.withSeq { s.seq with slots := s.seq.slots.set c v }

/-- 07 R133: a client posts a request: the slot becomes WAITING at the end of the wait list. -/
def post (c : Client) (r : Request) (s : State) : State :=
  s.withSeq { s.seq with slots := s.seq.slots.set c (.waiting r), waitList := s.seq.waitList ++ [c] }

/-- A READ of n bytes. -/
def readRequest (purpose : Purpose) (p : Pos) (n : Nat) : Request :=
  { kind := .read, block := p.block, offset := p.offset, length := n, data := [], passed := 0, purpose := purpose }

/-- A WRITE of bytes. -/
def writeRequest (purpose : Purpose) (p : Pos) (bs : List Byte) : Request :=
  { kind := .write, block := p.block, offset := p.offset, length := bs.length, data := bs, passed := 0
    purpose := purpose }

/-- 01 R2: the write of a block's link word. -/
def linkWrite (purpose : Purpose) (b : Nat) (next : Option Nat) : Request :=
  writeRequest purpose { block := b, offset := 0 } (linkWord next)

/-- 01 R3: the read of a block's link word. -/
def linkRead (purpose : Purpose) (b : Nat) : Request := readRequest purpose { block := b, offset := 0 } 4

/-! ### Contexts -/

/-- The writer of a producer. -/
def State.writer (s : State) : Producer → Writer
  | .push => s.push.w
  | .link => s.link.inb.w

def State.setWriter (s : State) (p : Producer) (w : Writer) : State :=
  match p with
  | .push => s.withPush { s.push with w := w }
  | .link => s.withLink { s.link with inb := { s.link.inb with w := w } }

/-- The reader of a consumer. -/
def State.reader (s : State) : Consumer → Reader
  | .pop => s.pop.r
  | .link => s.link.out.r

def State.setReader (s : State) (c : Consumer) (r : Reader) : State :=
  match c with
  | .pop => s.withPop { s.pop with r := r }
  | .link => s.withLink { s.link with out := { s.link.out with r := r } }

/-- Move a producer's block step to a stage. -/
def setStage (p : Producer) (g : StepStage) (s : State) : State :=
  s.setWriter p { s.writer p with step := (s.writer p).step.map (fun b => { b with stage := g }) }

/-- End a producer's block step. -/
def endStep (p : Producer) (s : State) : State := s.setWriter p { s.writer p with step := none }

/-- A claim of a producer on its own queue. -/
def producerClaim (p : Producer) (c : Claim) (s : State) : State :=
  match (s.writer p).queue with
  | some q => makeClaim q c s
  | none => s

/-- A claim of a consumer on its own queue. -/
def consumerClaim (c : Consumer) (x : Claim) (s : State) : State :=
  match (s.reader c).queue with
  | some q => makeClaim q x s
  | none => s

/-- 05 R82: the reader keeps its presented header, remaining count and a read in flight; the rest of the
selection is given up (05 R91, R94, R95). -/
def Reader.released (r : Reader) : Reader :=
  { r with queue := none, header := none, fetch := none, run := none, buf := [], walk := .none }

/-! ### Modes and GSTAT -/

/-- 11 R171: the last command result. -/
def setCommand (r : CmdResult) (s : State) : State := s.withSeq { s.seq with lastCommand := r }

/-- 11 R168: QRES takes an answer. -/
def setQres (r : QRes) (s : State) : State := s.withWindow { s.window with qres := r }

/-- 09 R150: MODE's last result. -/
def setModeResult (r : ModeResult) (s : State) : State := s.withModeCtl { s.modeCtl with last := r }

/-- 07 R127: the sequencer is in service. -/
def inService (x : SeqState) : Bool :=
  match x with
  | .ready | .accessing | .refreshing | .recovering => true
  | .off | .starting | .fault => false

/-! ### Link lines and timer (06 R99, R102) -/

/-- 06 R102: start the link timer. -/
def startTimer (u : TimerUse) (l : Link) : Link :=
  { l with timer := some { use := u, left := l.timeout * Config.timeoutUnit } }

/-- 06 R102: stop the link timer. -/
def stopTimer (l : Link) : Link := { l with timer := none }

/-- 06 R101: raise LACK for the byte in progress, with LRJ at the given level, and wait for LSTB to fall. -/
def ackByte (k : ByteKind) (reject : Bool) (l : Link) : Link :=
  startTimer .lstbFall
    { l with lines := { l.lines with lack := some true, lrj := some reject }, receive := .acked k }

/-- 06 R100: offer a byte. -/
def offerByte (i : FrameItem) (control : Bool) (b : Byte) (l : Link) : Link :=
  startTimer .lackRise
    { l with lines := { l.lines with ld := some b, lcmd := some control, lstb := some true }
             sending := some (i, false) }

/-- 06 R105: the retry count and record are given up. -/
def retryCleared (l : Link) : Link := { l with retryCount := 0, retryRecord := none }

/-- 06 R105: records leave the drain queue otherwise than by the link. -/
def drainLeft (q : QId) (s : State) : State :=
  s.withLink (if s.link.drainQ = some q then retryCleared s.link else s.link)

/-- 06 R99: the lines when the part becomes the sender again, LGNT low. -/
def restLines (l : Link) : Link := { l with lines := Lines.rest, receive := .complete }

/-- 06 R99: LGNT rises: the part stops driving LD, LSTB and LCMD and drives LACK and LRJ low. -/
def grantLines (l : Link) : Link :=
  { l with lines := { ld := none, lstb := none, lcmd := none, lack := some false, lrj := some false, lgnt := true }
           receive := .complete }

/-! ### Window accesses (11 R166, R167) -/

/-- 11 R167: an access other than a status read sets both view marks to STATUS; a write drives nothing. -/
def windowAccess (s : State) : State :=
  s.withWindow { s.window with pushView := .status, linkView := .status, dataOut := none }

/-- 11 R166: the part drives a byte onto D7 to D0. -/
def drive (b : Byte) (s : State) : State := s.withWindow { s.window with dataOut := some b }

end Sys2Proof.Machine
end

