-- ==== Sys2Proof/Machine/Pool.lean ====
section
/-! DEFINITION. The Block Pool (03): allocation, release, the pool agent, FORMAT's writes and the pool's fault. -/

namespace Sys2Proof.Machine

/-- 03 R43: the available blocks of the cache, top first. -/
def available (cache : List CacheBlock) : List CacheBlock := cache.filter (fun c => c.promised.isNone)

/-- 03 R41: the blocks in the release list. -/
def releaseBlocks (r : List Segment) : Nat := (r.map (·.count)).sum

/-- 03 R43: promise the topmost available block. -/
def promiseTop (p : Producer) : List CacheBlock → List CacheBlock
  | [] => []
  | c :: rest => if c.promised.isNone then { c with promised := some p } :: rest else c :: promiseTop p rest

/-- 03 R47: an available block goes to the earliest waiting allocation at once. -/
def serveWaiting (s : State) : State :=
  match s.pool.waitingAllocs, available s.pool.cache with
  | p :: rest, c :: _ =>
    setStage p (.granted c.block)
      (s.withPool { s.pool with cache := promiseTop p s.pool.cache, waitingAllocs := rest })
  | _, _ => s

/-- 03 R46: an allocation request is answered, waits or fails. -/
def allocate (p : Producer) (s : State) : State :=
  if s.pool.state ≠ .formatted then setStage p .exhausted s
  else match available s.pool.cache with
    | c :: _ => setStage p (.granted c.block) (s.withPool { s.pool with cache := promiseTop p s.pool.cache })
    | [] =>
      if 0 < s.pool.chainCount ∨ s.pool.release ≠ [] then
        setStage p .allocation (s.withPool { s.pool with waitingAllocs := s.pool.waitingAllocs ++ [p] })
      else setStage p .exhausted s

/-- 03 R47: every waiting allocation fails with EXHAUSTED. -/
def failAllocs (s : State) : State :=
  s.pool.waitingAllocs.foldl (fun t p => setStage p .exhausted t) (s.withPool { s.pool with waitingAllocs := [] })

/-- 03 R47: the pool can no longer supply a waiting allocation. -/
def allocsHopeless (s : State) : Bool :=
  !s.pool.waitingAllocs.isEmpty && (available s.pool.cache).isEmpty && s.pool.chainCount == 0
    && s.pool.release.isEmpty

/-! ### Handovers -/

/-- 03 R48: the cache has room for a single block, a place being kept for a fetch in flight. -/
def cacheRoom (s : State) : Bool :=
  s.pool.cache.length < (if slotHolds s .pool .fetch then Config.cacheBlocks - 1 else Config.cacheBlocks)

/-- 03 R48, R49: the release list has room. -/
def releaseRoom (s : State) : Bool := s.pool.release.length < Config.releaseEntries

/-- 03 R48, R49, R52: the pool takes a handover of this segment at this event. -/
def poolTakes (g : Segment) (s : State) : Bool :=
  s.pool.state != .formatted || (g.count == 1 && cacheRoom s) || releaseRoom s

/-- 03 R48, R49, R52: the pool takes a segment. -/
def poolPut (g : Segment) (s : State) : State :=
  if s.pool.state ≠ .formatted then s
  else if g.count = 1 ∧ cacheRoom s then
    serveWaiting (s.withPool { s.pool with cache := { block := g.first, promised := none } :: s.pool.cache })
  else s.withPool { s.pool with release := s.pool.release ++ [g] }

/-- 03 R48 case 1: the block is in the cache, promised to the producer. -/
def promisedTo (b : Nat) (p : Producer) (s : State) : Bool :=
  s.pool.cache.any (fun c => c.block == b && c.promised == some p)

/-- 03 R48, R51, R52: the pool takes a single release at this event. -/
def poolTakesSingle (b : Nat) (p : Producer) (s : State) : Bool :=
  promisedTo b p s || poolTakes { first := b, last := b, count := 1 } s

/-- 03 R48, R52, R53: the pool takes a single release. Out of FORMATTED the block is counted nowhere. -/
def poolPutSingle (b : Nat) (p : Producer) (s : State) : State :=
  if s.pool.state ≠ .formatted then
    s.withPool { s.pool with cache := s.pool.cache.filter (fun c => !(c.block == b && c.promised == some p)) }
  else if promisedTo b p s then
    serveWaiting (s.withPool { s.pool with
      cache := s.pool.cache.map (fun c => if c.block = b ∧ c.promised = some p then { c with promised := none } else c) })
  else poolPut { first := b, last := b, count := 1 } s

/-- 03 R43, R48, R51: a producer hands back a block it does not want. -/
def releaseSingle (b : Nat) (p : Producer) (s : State) : State :=
  if poolTakesSingle b p s then poolPutSingle b p s
  else s.withPool { s.pool with waiting := s.pool.waiting ++ [.single b p] }

/-- 02 R19, 03 R43: a joined block leaves the cache. -/
def cacheLeft (b : Nat) (s : State) : State :=
  s.withPool { s.pool with cache := s.pool.cache.filter (fun c => c.block != b) }

/-! ### The pool agent (03 R44, R45, R50, R56) -/

/-- 03 R44: the fetch of the chain head. -/
def fetchRequest (h : Nat) : Request := linkRead .fetch h

/-- 03 R50: the release write of an entry. -/
def releaseRequest (g : Segment) (chainHead : Option Nat) : Request := linkWrite .releaseWrite g.last chainHead

/-- 03 R56: the format write of block b. -/
def formatRequest (total b : Nat) : Request :=
  linkWrite .formatWrite b (if b + 1 < total then some (b + 1) else none)

/-- 03 R45: what the pool agent posts when its slot is empty. -/
def poolWork (s : State) : Option Request :=
  let total := totalBlocks s.seq.config
  match s.pool.state with
  | .formatting => if s.pool.progress < total then some (formatRequest total s.pool.progress) else none
  | .formatted =>
    let fetch := if 0 < s.pool.chainCount then s.pool.chainHead.map fetchRequest else none
    if !s.pool.waitingAllocs.isEmpty && fetch.isSome then fetch
    else match s.pool.release with
      | g :: _ => some (releaseRequest g s.pool.chainHead)
      | [] => if (available s.pool.cache).length < Config.cacheLowMark then fetch else none
  | .unformatted | .broken => none

/-- 03 R45: the pool agent posts. -/
def poolMicro (s : State) : Option State :=
  if slotFree s .pool then (poolWork s).map (fun r => post .pool r s) else none

/-- 03 R53: a chain fault met by a fetch. The waiting handovers are taken by the rule for a pool that is not
FORMATTED, at this event (`handoverMicro`). -/
def poolFault (s : State) : State :=
  raise .poolFault
    (failAllocs (s.withPool { s.pool with
      state := .broken, release := [], cache := s.pool.cache.filter (fun c => c.promised.isSome) }))

/-- 03 R44: is the chain head's link word sound against the chain count? Answers the next head. -/
def fetchSound (count : Nat) (k : LinkClass) : Option (Option Nat) :=
  match k with
  | .chainFault => none
  | .names b => if 1 < count then some (some b) else none
  | .none => if count = 1 then some none else none

/-- 03 R44, R47, R53: a fetch is confirmed. -/
def fetchConfirmed (bs : List Byte) (s : State) : State :=
  match s.pool.chainHead, fetchSound s.pool.chainCount (classifyLink (totalBlocks s.seq.config) bs) with
  | some h, some next =>
    serveWaiting (s.withPool { s.pool with
      cache := { block := h, promised := none } :: s.pool.cache, chainHead := next
      chainCount := s.pool.chainCount - 1 })
  | _, _ => poolFault s

/-- 03 R50: a release write is confirmed. -/
def releaseConfirmed (s : State) : State :=
  match s.pool.release with
  | g :: rest =>
    s.withPool { s.pool with chainHead := some g.first, chainCount := s.pool.chainCount + g.count, release := rest }
  | [] => s

/-- 03 R58: the pool's values after reset. -/
def poolReset (s : State) : State := s.withPool Pool.reset

/-- 03 R54: the array fault at the pool. -/
def poolArrayFault (s : State) : State :=
  match s.pool.state with
  | .formatted | .formatting =>
    s.withPool { s.pool with state := .broken, cache := [], release := [], waiting := [], waitingAllocs := [] }
  | .broken | .unformatted => s

end Sys2Proof.Machine
end

