-- ==== Sys2Proof/Machine/Producers.lean ====
section
/-! DEFINITION. The producers' contexts (04, 06 R116 to R119): cancelling, refusing, rejecting and dropping a
record, and the writer that the Push Engine and the Link Engine's inbound side share (04 R69 to R75, 06 R117). -/

namespace Sys2Proof.Machine

/-! ### Phases of a record -/

/-- What a producer's context lets its writer do. -/
inductive Phase where
  | resting | filling | committing | cancelling
deriving DecidableEq, Repr

/-- 04 R69, R77, 06 R117 to R119: the phase of a producer's record. -/
def phase (s : State) : Producer → Phase
  | .push =>
    match s.push.state with
    | .idle | .awaitTag => .resting
    | .filling => .filling
    | .committing => .committing
    | .cancelling => .cancelling
  | .link =>
    match s.link.inb.state with
    | .idle | .discarding => .resting
    | .filling => .filling
    | .committing => .committing
    | .cancelling => if s.link.inb.cancelDone then .resting else .cancelling

/-- The record is still wanted. -/
def recordWanted (s : State) (p : Producer) : Bool := phase s p == .filling || phase s p == .committing

/-! ### The push context -/

/-- 04 R62, R75, R77: the push context without a record. PLEN, LOST and REPEATED are kept. -/
def pushIdle (r : PushResult) (s : State) : State :=
  s.withPush { s.push with state := .idle, w := Writer.reset, armed := none, remainder := none, last := r }

/-- 04 R76: a cancel begins. -/
def pushCancel (r : PushResult) (s : State) : State :=
  s.withPush { s.push with state := .cancelling, w := { s.push.w with buf := [] }, armed := none, remainder := none
                           last := r }

/-- 04 R64: copies of the remainder enter the staging FIFO as there is room. -/
def remainderEnters (x : Push) : Push :=
  match x.remainder with
  | none => x
  | some (b, n) =>
    let k := min n (Config.fifoBytes - x.w.buf.length)
    { x with w := { x.w with buf := x.w.buf ++ List.replicate k b }
             remainder := if n - k = 0 then none else some (b, n - k) }

/-! ### The inbound context -/

/-- 06 R101, R117, R119: a held byte is acknowledged and leaves the context. -/
def ackHeld (l : Link) : Link :=
  match l.inb.held, l.receive with
  | some _, .withheld .plain => { ackByte .plain false l with inb := { l.inb with held := none } }
  | _, _ => { l with inb := { l.inb with held := none } }

/-- 06 R119: a commit claim of the record is withdrawn from the fill queue's held claims. -/
def withdrawCommit (s : State) : State :=
  match s.link.inb.w.queue with
  | none => s
  | some q =>
    s.setQueue q { s.queue q with
      claims := (s.queue q).claims.filter (fun c => match c with | .commit .link _ _ _ => false | _ => true) }

/-- 06 R119: the inbound record is rejected or abandoned and its cancel begins. -/
def inboundCancel (v : Option Verdict) (s : State) : State :=
  let s := withdrawCommit s
  let l := ackHeld s.link
  s.withLink { l with inb := { l.inb with
    state := .cancelling, verdict := v, cancelDone := false
    w := { l.inb.w with buf := [], claimed := false } } }

/-- 06 R119: the inbound record is rejected. -/
def inboundReject (s : State) : State := inboundCancel (some .reject) s

/-- 06 R116: the open claim is refused: what arrives is discarded. -/
def inboundDiscard (s : State) : State :=
  let l := ackHeld s.link
  s.withLink { l with inb := { l.inb with state := .discarding, verdict := some .reject, w := Writer.reset } }

/-- 06 R119: the inbound context has no outstanding work. -/
def inboundDone (s : State) : State :=
  s.withLink { s.link with inb := { s.link.inb with cancelDone := true, w := Writer.reset } }

/-! ### Both producers -/

/-- 04 R73, 06 R117: a block was refused under policy: the record is cancelled, or rejected. -/
def refuseRecord (p : Producer) (s : State) : State :=
  let s := endStep p s
  match p with
  | .push => raise .pushRefused (pushCancel .refused s)
  | .link => inboundReject s

/-- 04 R73: LIMIT or EXHAUSTED, answered by the queue's policy as it stands at this event. That it ends the block step alone
where the record is already being cancelled is the model's choice (log entry 38). -/
def blockRefused (p : Producer) (s : State) : State :=
  if !recordWanted s p then endStep p s
  else match (s.writer p).queue with
    | none => endStep p s
    | some q =>
      match (s.queue q).policy with
      | .refuse => refuseRecord p s
      | .discardOldest => makeClaim q (.discard p) (setStage p .discard s)

/-- 04 R78: what a drop leaves of a block step whose claims get no answer (log entry 14). -/
def droppedStep : Option BlockStep → Option BlockStep
  | none => none
  | some b =>
    match b.stage with
    | .join n => some { b with stage := .handBack n }
    | .granted _ | .allocation | .exhausted | .handBack _ => some b
    | .extension | .discard | .retry => none

/-- 04 R78, 06 R119: the Queue Table tells a producer that its open record is dropped. -/
def dropRecord (p : Producer) (s : State) : State :=
  let w := s.writer p
  let w := { w with buf := [], step := droppedStep w.step, claimed := false, dropped := true }
  match p with
  | .push =>
    s.withPush { s.push with state := .cancelling, w := w, armed := none, remainder := none, last := .dropped }
  | .link =>
    let l := ackHeld s.link
    s.withLink { l with inb := { l.inb with state := .cancelling, verdict := some .reject, cancelDone := false, w := w } }

/-- 04 R62, 06 R116, R119: the open claim is refused. -/
def openRefused (p : Producer) (r : PushResult) (s : State) : State :=
  match p with
  | .push =>
    match s.push.state with
    | .idle => s
    | .cancelling => pushIdle .cancelled s
    | .awaitTag | .filling | .committing => raise .pushRefused (pushIdle r s)
  | .link =>
    match s.link.inb.state with
    | .filling | .committing => inboundDiscard s
    | .cancelling => inboundDone s
    | .idle | .discarding => s

/-- 04 R61, 06 R116: the open claim is taken. -/
def openTaken (p : Producer) (s : State) : State :=
  let s := s.setWriter p { s.writer p with openAns := some .taken }
  match p with
  | .push => s.withPush { s.push with last := .opened }
  | .link => s

/-- 04 R77: the cancel is done. A push context returns to IDLE with the last result it has; an inbound one
waits for the frame's END or ABORT (06 R119). -/
def cancelDone (p : Producer) (s : State) : State :=
  match p with
  | .push => pushIdle s.push.last s
  | .link => inboundDone s

/-- 04 R75, 06 R118: the commit claim is taken. -/
def commitTaken (p : Producer) (s : State) : State :=
  match p with
  | .push => pushIdle .committed s
  | .link =>
    let i := s.link.inb
    let l := { s.link with
      received := sat16 (s.link.received + 1)
      inb := { Inbound.reset with
        frameBytes := i.frameBytes, verdict := some .accept
        w := { Writer.reset with write := i.w.write } } }
    s.withLink (match s.link.receive with
      | .withheld .endByte => ackByte .endByte false l
      | .withheld .plain | .withheld .abortByte | .complete | .acked _ => l)

/-- 04 R78: a commit claim is refused: the record was dropped. -/
def commitRefused (p : Producer) (s : State) : State := dropRecord p s

/-! ### The writer -/

/-- 04 R70: the block step that a header needs begins, or a payload block's (04 R72): its extension claim. -/
def beginStep (p : Producer) (forHeader : Bool) (s : State) : State :=
  producerClaim p (.extension p)
    (s.setWriter p { s.writer p with step := some { forHeader := forHeader, stage := .extension } })

/-- 04 R70, 01 R9: the writer fixes the header position against the descriptor as it stands. -/
def fixHeader (p : Producer) (q : QId) (s : State) : State :=
  match (s.queue q).tail with
  | none => beginStep p true s
  | some t =>
    if headerFits t.offset (headerSize (s.queue q)) then
      s.setWriter p { s.writer p with header := some t, write := some (t.add (headerSize (s.queue q))) }
    else beginStep p true s

/-- 01 R8, 04 R70, 06 R117: the reserved header. -/
def reservedHeader (p : Producer) (tag : Byte) : Header :=
  { length := 0, tag := tag, flags := (match p with | .push => 0 | .link => flagLinked), stamp := 0, seq := 0 }

/-- 04 R75, 06 R118: the flags byte of the header patch. -/
def patchFlags (p : Producer) (s : State) : Byte :=
  match p with
  | .push => (if s.push.lost then flagLost else 0) ||| (if s.push.repeated then flagRepeated else 0)
  | .link => flagLinked

/-- 04 R75, 06 R118: the length the record is committed with. -/
def patchLength (p : Producer) (s : State) : Nat :=
  match p with
  | .push => s.push.accepted
  | .link => s.link.inb.declared.getD 0

/-- 02 R20, 04 R75: the header patch, with the commit values of this event. -/
def patchHeader (p : Producer) (q : QId) (tag : Byte) (s : State) : Header :=
  { length := patchLength p s, tag := tag, flags := patchFlags p s, stamp := s.stamp.counter
    seq := (s.queue q).nextSeq }

/-- 06 R117: the header of an inbound record is fixed only with the declared length formed. -/
def headerAllowed (p : Producer) (s : State) : Bool :=
  match p with
  | .push => true
  | .link => s.link.inb.declared.isSome

/-- 04 R69 case 5, 06 R117: a burst shorter than a full one may be posted. -/
def shortBurst (p : Producer) (s : State) : Bool :=
  phase s p == .committing ||
    (match p with
     | .push => false
     | .link => s.link.inb.declared == some (s.link.inb.frameBytes - 3) && 3 ≤ s.link.inb.frameBytes)

/-- 04 R71: the bytes of the next burst at the write position. -/
def burstLength (w : Writer) (at_ : Pos) : Nat :=
  min (min w.buf.length Config.burstBytes) (Config.blockBytes - at_.offset)

/-- 04 R71: a payload burst is posted; its bytes leave the buffer, and the remainder enters the room. -/
def postBurst (p : Producer) (at_ : Pos) (s : State) : State :=
  let w := s.writer p
  let b := burstLength w at_
  let s := post p.client (writeRequest .burst at_ (w.buf.take b)) s
  let s := s.setWriter p { w with buf := w.buf.drop b, write := some (at_.add b) }
  match p with
  | .push => s.withPush (remainderEnters s.push)
  | .link => s

/-- 04 R69: the first of the writer's six kinds of work that applies. -/
def writerWork (p : Producer) (s : State) : Option State :=
  let w := s.writer p
  match w.queue, w.tag with
  | some q, some tag =>
    match w.header, w.write, w.owed with
    | none, _, _ =>
      if w.openAns = some .taken ∧ headerAllowed p s then some (fixHeader p q s) else none
    | some _, _, some (b, n) => some (post p.client (linkWrite .linkWord b (some n)) s)
    | some h, some at_, none =>
      if !w.reserved then
        some (post p.client (writeRequest .reservation h (headerBytes (s.queue q) (reservedHeader p tag)))
          (s.setWriter p { w with reserved := true }))
      else if w.buf ≠ [] ∧ at_.offset = Config.blockBytes then some (beginStep p false s)
      else if w.buf ≠ [] ∧ (min Config.burstBytes (Config.blockBytes - at_.offset) ≤ w.buf.length ∨ shortBurst p s)
      then some (postBurst p at_ s)
      else if phase s p = .committing ∧ w.buf = [] ∧ !w.patched then
        some (post p.client (writeRequest .patch h (headerBytes (s.queue q) (patchHeader p q tag s)))
          (s.setWriter p { w with patched := true }))
      else none
    | some _, none, none => none
  | _, _ => none

/-- 04 R77, R78, 06 R119: in CANCELLING, with nothing outstanding, the cancel claim is made, or the context is
done. -/
def cancelWork (p : Producer) (s : State) : Option State :=
  let w := s.writer p
  if w.openAns = some .awaited ∧ !w.dropped then none
  else if w.claimed then none
  else if w.dropped ∨ w.openAns = none then some (cancelDone p s)
  else some (producerClaim p (.cancel p) (s.setWriter p { w with claimed := true }))

/-- 04 R72, R73, R77: the block step goes on from an answer. -/
def stepWork (p : Producer) (b : BlockStep) (s : State) : Option State :=
  match b.stage with
  | .granted n =>
    if recordWanted s p then some (producerClaim p (.join p n) (setStage p (.join n) s))
    else some (releaseSingle n p (endStep p s))
  | .exhausted => some (blockRefused p s)
  | .handBack n => some (releaseSingle n p (endStep p s))
  | .retry =>
    if recordWanted s p then some (producerClaim p (.extension p) (setStage p .extension s))
    else some (endStep p s)
  | .extension | .allocation | .join _ | .discard => none

/-- 04 R69, R77: what a producer does next of its own. -/
def producerMicro (p : Producer) (s : State) : Option State :=
  match (s.writer p).step with
  | some b => stepWork p b s
  | none =>
    if !slotFree s p.client then none
    else match phase s p with
      | .filling | .committing => writerWork p s
      | .cancelling => cancelWork p s
      | .resting => none

/-- 04 R70, R72: a join claim is taken: the block is the queue's tail block, and the positions follow.
`prev` is the tail block before it, none where the queue held no blocks. -/
def joinTaken (p : Producer) (n : Nat) (prev : Option Nat) (h : Nat) (s : State) : State :=
  let w := s.writer p
  match w.step with
  | none => s
  | some b =>
    let start := Pos.start n
    if b.forHeader then
      s.setWriter p { w with step := none, header := some start, write := some (start.add h)
                             owed := prev.map (fun t => (t, n)) }
    else
      s.setWriter p { w with step := none, write := some start, owed := w.write.map (fun at_ => (at_.block, n)) }

/-- 04 R71, R72, R75, 06 R117, R118: a producer's own request is confirmed. -/
def writerConfirmed (p : Producer) (u : Purpose) (s : State) : State :=
  let w := s.writer p
  match u with
  | .linkWord => s.setWriter p { w with owed := none }
  | .patch =>
    if phase s p = .committing then
      match w.header, w.write with
      | some h, some e => producerClaim p (.commit p (patchLength p s) h e) (s.setWriter p { w with claimed := true })
      | _, _ => s
    else s
  | _ => s

end Sys2Proof.Machine
end

