-- ==== Sys2Proof/Machine/Queues.lean ====
section
/-! DEFINITION. The Queue Table (02): the answers to claims, handovers and their effects, discards, faults and
the reinitialisation of the descriptors. -/

namespace Sys2Proof.Machine

/-! ### Handovers (02 R24, R25) -/

/-- 02 R24: the header position of the open record, where it is fixed; the Queue Table takes it from the
producer. -/
def openHeader (s : State) (q : Queue) : Option Pos :=
  match q.openRec with
  | none => none
  | some p => (s.writer p).header

/-- 02 R24, 01 R14: the head position after the removal, or none when every block leaves. -/
def nextHead (q : Queue) (openHdr : Option Pos) (r : Removal) : Option Pos :=
  if 1 < q.records then some (match r.next with | some h => h | none => q.second.getD r.endPos)
  else openHdr

/-- 02 R21, R32, 01 R13: all blocks of the chain as one segment. -/
def wholeChain (q : Queue) : Option Segment :=
  match q.head, q.tailBlock with
  | some h, some t => if q.blocks = 0 then none else some { first := h.block, last := t, count := q.blocks }
  | _, _ => none

/-- 05 R94: the segment the head leaves behind when it moves to h. -/
def leftBehind (r : Removal) (h : Pos) : Option Segment :=
  if h.block = r.endPos.block then
    match r.run.prev with
    | some b => if r.run.count ≤ 1 then none else some { first := r.run.first, last := b, count := r.run.count - 1 }
    | none => none
  else some { first := r.run.first, last := r.endPos.block, count := r.run.count }

/-- 02 R24: the segment of a head advance. -/
def advanceSegment (q : Queue) (openHdr : Option Pos) (r : Removal) : Option Segment :=
  match nextHead q openHdr r with
  | some h => leftBehind r h
  | none => wholeChain q

/-- The blocks of a segment that may be absent. -/
def segmentBlocks : Option Segment → Nat
  | none => 0
  | some g => g.count

/-- A descriptor that holds no blocks (01 R14, 02 R15). -/
def Queue.emptied (q : Queue) : Queue :=
  { q with blocks := 0, head := none, tail := none, tailBlock := none, joined := none, second := none }

/-- 02 R24: the head advance on the descriptor; the pin and the claim hold are the caller's. -/
def headAdvance (q : Queue) (openHdr : Option Pos) (r : Removal) : Queue :=
  let g := advanceSegment q openHdr r
  let q' := { q with records := q.records - 1, payload := q.payload - r.length, second := none }
  match nextHead q openHdr r with
  | none => q'.emptied
  | some h =>
    if 1 < q.records then { q' with head := some h, blocks := q.blocks - segmentBlocks g }
    else { q' with head := some h, tail := some h, blocks := q.blocks - segmentBlocks g, joined := none }

/-- 02 R21: the segment of a cancel. -/
def cancelSegment (q : Queue) : Option Segment :=
  if q.records = 0 then wholeChain q
  else match q.joined, q.tailBlock with
    | some (b, n), some t => some { first := b, last := t, count := n }
    | _, _ => none

/-- 02 R21: the cancel on the descriptor. -/
def cancelEffect (q : Queue) : Queue :=
  let q' := { q with openRec := none }
  if q.records = 0 then q'.emptied
  else { q' with blocks := q.blocks - segmentBlocks (cancelSegment q), joined := none
                 tailBlock := q.tail.map (·.block) }

/-- 02 R32: the flush on the descriptor. -/
def flushEffect (q : Queue) : Queue := { q.emptied with records := 0, payload := 0 }

/-- 02 R25: the segment the queue's work hands over, formed on the state as it stands (log entry 11). -/
def workSegment (s : State) (q : QId) : Option Segment :=
  let x := s.queue q
  match x.work with
  | .remove _ r => advanceSegment x (openHeader s x) r
  | .discard d =>
    match d.stage with
    | .removal r => advanceSegment x (openHeader s x) r
    | .header | .walk | .endLink => none
  | .cancel _ => cancelSegment x
  | .flush => wholeChain x
  | .idle => none

/-- 02 R24: the open record's producer owes the link word of the segment's last block. -/
def owesLast (s : State) (q : QId) (g : Segment) : Option Producer :=
  match (s.queue q).openRec with
  | none => none
  | some p => if (s.writer p).owed.map (·.1) = some g.last then some p else none

/-- 02 R24: that write is posted and not confirmed: the handover waits for it. -/
def owedPosted (s : State) (q : QId) : Bool :=
  match workSegment s q with
  | none => false
  | some g =>
    match owesLast s q g with
    | none => false
    | some p => slotHolds s p.client .linkWord

/-- 02 R24: the producer's debt ends with the block's departure. -/
def dropOwed (s : State) (q : QId) : State :=
  match workSegment s q with
  | none => s
  | some g =>
    match owesLast s q g with
    | none => s
    | some p => s.setWriter p { s.writer p with owed := none }

/-- 02 R25: the claim hold clears. -/
def Queue.unheld (q : Queue) : Queue := { q with work := .idle, wait := .none }

/-- 02 R34 step 1: the discard goes on with the oldest record, or ends unsuccessfully. That an unsuccessful end changes neither
the last result nor a cause where the record is already being cancelled is the model's choice (log entry 38). -/
def discardLoop (q : QId) (p : Producer) (s : State) : State :=
  let x := s.queue q
  if x.records = 0 ∨ x.pin ≠ none then
    let s := s.setQueue q x.unheld
    if recordWanted s p then refuseRecord p s else endStep p s
  else
    let d : Discard := { producer := p, stage := .header, length := 0, fetch := x.head.getD (Pos.start 0)
                         unfetched := 0, run := { first := 0, prev := none, count := 1 } }
    s.setQueue q { x with work := .discard d, wait := .none }

/-- 05 R94: the remove claim takes effect at its claimant. -/
def removeTaken (c : Consumer) (s : State) : State :=
  match c with
  | .pop => s.withPop { s.pop with state := .idle, r := s.pop.r.released, pinAns := none, last := .released }
  | .link =>
    s.withLink { retryCleared s.link with
      out := { s.link.out with settled := true }, last := .accepted }

/-- A remove claim is refused: the pin was dropped (02 R24, R26). -/
def removeRefused (c : Consumer) (s : State) : State :=
  match c with
  | .pop => s.withPop { s.pop with state := .idle, r := s.pop.r.released, pinAns := none }
  | .link => s.withLink { s.link with out := { s.link.out with settled := true } }

/-- 02 R21, R24, R25, R32, R34: the whole effect of a queue's work, at the event the pool takes its handover or
at once where it makes none. -/
def finishWork (q : QId) (s : State) : State :=
  let x := s.queue q
  let g := workSegment s q
  match x.work with
  | .idle => s
  | .remove c r =>
    let y := headAdvance x (openHeader s x) r
    removeTaken c ((dropOwed s q).setQueue q { y.unheld with pin := none })
  | .cancel p =>
    cancelDone p (s.setQueue q (cancelEffect x).unheld)
  | .flush =>
    setQres .ok (drainLeft q (s.setQueue q (flushEffect x).unheld))
  | .discard d =>
    match d.stage with
    | .removal r =>
      let y := headAdvance x (openHeader s x) r
      let s := drainLeft q (raiseQueue .queueDiscard q
        ((dropOwed s q).setQueue q { y with discards := sat16 (y.discards + 1) }))
      if g.isSome then setStage d.producer .retry (s.setQueue q (s.queue q).unheld)
      else discardLoop q d.producer s
    | .header | .walk | .endLink => s

/-- 02 R25, 03 R48 to R52: a queue's work hands its segment over at this event, or waits. -/
def tryWork (q : QId) (s : State) : State :=
  if owedPosted s q then s.setQueue q { s.queue q with wait := .forLinkWord }
  else match workSegment s q with
    | none => finishWork q s
    | some g =>
      if poolTakes g s then finishWork q (poolPut g s)
      else
        (s.setQueue q { s.queue q with wait := .atPool }).withPool
          { s.pool with waiting := s.pool.waiting ++ [.ofQueue q] }

/-- 02 R25: the queue's work begins. -/
def beginWork (q : QId) (w : Work) (s : State) : State := tryWork q (s.setQueue q { s.queue q with work := w })

/-! ### Answers to claims (02 R17 to R24) -/

/-- 02 R17, R18: the answer to an open claim: none when taken. -/
def openAnswer (x : Queue) (p : Producer) : Option PushResult :=
  if x.state = .off ∨ x.state = .faulted then some .badState
  else if x.producer ≠ (match p with | .push => .window | .link => .link) then some .badBinding
  else if x.openRec ≠ none then some .busy
  else if x.records = Config.maxRecords then some .full
  else none

/-- 02 R17, R22: the answer to a pin claim: none when taken. -/
def pinAnswer (x : Queue) (c : Consumer) : Option PopResult :=
  if x.state ≠ .active then some .badState
  else if x.consumer ≠ (match c with | .pop => .window | .link => .link) then some .badBinding
  else if x.records = 0 then some .empty
  else if x.pin ≠ none then some .busy
  else none

/-- 02 R22: a pin claim is taken on the descriptor. -/
def pinned (c : Consumer) (x : Queue) : Queue := { x with pin := some c }

/-- 02 R19: a join claim is taken on the descriptor. -/
def joinedBlock (b : Nat) (x : Queue) : Queue :=
  if x.blocks = 0 then
    { x with blocks := 1, tailBlock := some b, head := some (Pos.start b), tail := some (Pos.start b), joined := none }
  else
    { x with blocks := x.blocks + 1, tailBlock := some b
             joined := some (match x.joined with | none => (b, 1) | some (f, n) => (f, n + 1)) }

/-- 02 R20: a commit claim is taken on the descriptor. -/
def committed (length : Nat) (header endPos : Pos) (x : Queue) : Queue :=
  { x with records := x.records + 1, payload := x.payload + length, tail := some endPos, nextSeq := x.nextSeq + 1
           openRec := none, joined := none, second := if x.records = 1 then some header else x.second }

/-- 05 R85, 02 R22: the pop context at a taken pin claim. -/
def popPinned (x : Queue) (s : State) : State :=
  let h := x.head.getD (Pos.start 0)
  s.withPop { s.pop with
    pinAns := some .taken, last := .selected
    r := { s.pop.r with header := some h, hsize := headerSize x
                        run := some { first := h.block, prev := none, count := 1 } } }

/-- 05 R85: the pop context at a refused pin claim. -/
def popRefused (r : PopResult) (s : State) : State :=
  s.withPop { s.pop with state := .idle, pinAns := none, last := r, r := s.pop.r.released }

/-- 02 R18: an open claim. -/
def answerOpen (q : QId) (p : Producer) (s : State) : State :=
  match openAnswer (s.queue q) p with
  | some r => openRefused p r s
  | none => openTaken p (s.setQueue q { s.queue q with openRec := some p })

/-- 02 R19, 04 R72, R73, R77: an extension claim. LIMIT for a record that is already being cancelled: log entry 38. -/
def answerExtension (q : QId) (p : Producer) (s : State) : State :=
  let x := s.queue q
  if x.openRec ≠ some p then endStep p s
  else if !recordWanted s p then endStep p s
  else if x.blocks < x.blockLimit then allocate p s
  else blockRefused p s

/-- 02 R19: a join claim. -/
def answerJoin (q : QId) (p : Producer) (b : Nat) (s : State) : State :=
  let x := s.queue q
  if x.openRec ≠ some p then releaseSingle b p (endStep p s)
  else
    let prev := if x.blocks = 0 then none else x.tailBlock
    joinTaken p b prev (headerSize x) (cacheLeft b (s.setQueue q (joinedBlock b x)))

/-- 02 R20: a commit claim. -/
def answerCommit (q : QId) (p : Producer) (length : Nat) (header endPos : Pos) (s : State) : State :=
  let x := s.queue q
  if x.openRec ≠ some p then commitRefused p s
  else
    let s := commitTaken p (s.setQueue q (committed length header endPos x))
    if x.records = 0 then raiseQueue .nonempty q s else s

/-- 02 R21: a cancel claim. -/
def answerCancel (q : QId) (p : Producer) (s : State) : State :=
  if (s.queue q).openRec ≠ some p then cancelDone p s else beginWork q (.cancel p) s

/-- 02 R22, 05 R85, R92: a pin claim of the Pop Engine; the Link Engine's is answered as it is made (06 R109). -/
def answerPin (q : QId) (c : Consumer) (wanted : Bool) (s : State) : State :=
  let x := s.queue q
  let s := match c with | .pop => clearQueue .nonempty q s | .link => s
  match pinAnswer x c with
  | some r => match c with | .pop => if wanted then popRefused r s else s | .link => s
  | none =>
    let s := s.setQueue q (pinned c x)
    match c with | .pop => if wanted then popPinned x s else s | .link => s

/-- 02 R23, 06 R115: an unpin claim. -/
def answerUnpin (q : QId) (c : Consumer) (noticed : Bool) (s : State) : State :=
  let x := s.queue q
  let s := if x.pin = some c then s.setQueue q { x with pin := none } else s
  match c with
  | .pop => s
  | .link => if noticed then s.withLink { s.link with out := { s.link.out with settled := true } } else s

/-- 02 R24: a remove claim. -/
def answerRemove (q : QId) (c : Consumer) (r : Removal) (s : State) : State :=
  if (s.queue q).pin ≠ some c then removeRefused c s else beginWork q (.remove c r) s

/-- 02 R34: a discard request. -/
def answerDiscard (q : QId) (p : Producer) (s : State) : State :=
  if (s.queue q).openRec ≠ some p then endStep p s else discardLoop q p s

/-- 02 R25: a claim is answered against the descriptor as it stands. -/
def answerClaim (q : QId) (c : Claim) (s : State) : State :=
  match c with
  | .openRec p => answerOpen q p s
  | .extension p => answerExtension q p s
  | .join p b => answerJoin q p b s
  | .commit p n h e => answerCommit q p n h e s
  | .cancel p => answerCancel q p s
  | .pin c w => answerPin q c w s
  | .unpin c w => answerUnpin q c w s
  | .remove c r => answerRemove q c r s
  | .discard p => answerDiscard q p s

/-- 02 R25: the first queue with a claim to answer and its claim hold clear. -/
def answerable (s : State) : Option QId :=
  allQueues.find? (fun q => !(s.queue q).claims.isEmpty && !(s.queue q).held)

/-- 02 R25: the oldest claim of that queue is answered. -/
def claimMicro (s : State) : Option State :=
  match answerable s with
  | none => none
  | some q =>
    match (s.queue q).claims with
    | [] => none
    | c :: rest => some (answerClaim q c (s.setQueue q { s.queue q with claims := rest }))

/-! ### Waiting handovers (02 R24, 03 R51) -/

/-- 03 R51, R52: the pool takes the handover at the front of its waiting handovers. -/
def takeFront (s : State) : State :=
  match s.pool.waiting with
  | [] => s
  | h :: rest =>
    let s := s.withPool { s.pool with waiting := rest }
    match h with
    | .single b p => poolPutSingle b p s
    | .ofQueue q =>
      match workSegment s q with
      | none => finishWork q s
      | some g => finishWork q (poolPut g s)

/-- 03 R51: the front waiting handover can be taken. -/
def frontTakable (s : State) : Bool :=
  match s.pool.waiting with
  | [] => false
  | .single b p :: _ => poolTakesSingle b p s
  | .ofQueue q :: _ =>
    !owedPosted s q &&
      (match workSegment s q with
       | none => true
       | some g => poolTakes g s)

/-- 03 R51: waiting handovers are taken from the front. R51 names the gain of room as the event; that the front one is also
considered where the one before it was dropped with its FAULTED queue, or where the link word that held it back is
confirmed, is the model's choice (log entry 36). -/
def handoverMicro (s : State) : Option State := if frontTakable s then some (takeFront s) else none

/-- 02 R24: a handover that waited for a link word goes on when the write is confirmed. -/
def owedMicro (s : State) : Option State :=
  match allQueues.find? (fun q => (s.queue q).wait == .forLinkWord && !owedPosted s q) with
  | none => none
  | some q => some (tryWork q s)

/-- 03 R47: waiting allocations fail when the pool can no longer supply them, after all that the event brings (`microRules`):
a block that a producer hands back within the event still serves them. -/
def allocMicro (s : State) : Option State := if allocsHopeless s then some (failAllocs s) else none

/-! ### Faults and reinitialisation (02 R26, R27, R39) -/

/-- 02 R26: the claim behind a dropped handover is refused. -/
def workDropped (q : QId) (s : State) : State :=
  match (s.queue q).work with
  | .remove c _ => removeRefused c s
  | .flush => setQres .badState s
  | .idle | .cancel _ | .discard _ => s

/-- 02 R26: a fault claim for a queue. The held claims are dropped without an answer. What then becomes of an engine whose
claim was dropped and that R26 names no other answer for is the model's reading: the Pop Engine of a held pin claim stays in
LOADING (log entry 15), and a producer whose open claim was held (it has no open record to be told of) goes on awaiting the
answer, in CANCELLING too (log entry 35). -/
def faultClaim (q : QId) (s : State) : State :=
  let x := s.queue q
  if x.state = .active ∨ x.state = .held then
    let s := workDropped q s
    let s := match x.openRec with | some p => dropRecord p s | none => s
    let s := s.setQueue q { s.queue q with
      state := .faulted, fault := some .chain, pin := none, openRec := none, work := .idle, wait := .none, claims := [] }
    let s := s.withPool { s.pool with waiting := s.pool.waiting.filter (fun h => h != .ofQueue q) }
    raiseQueue .queueFault q s
  else s

/-- 02 R27: the array fault at one descriptor. -/
def Queue.arrayFault (x : Queue) : Queue :=
  if x.state = .active ∨ x.state = .held then
    { x with state := .faulted, fault := some .array, pin := none, openRec := none, work := .idle, wait := .none
             claims := [] }
  else x

/-- 02 R27, 11 R168: the array fault at the Queue Table. -/
def queuesArrayFault (s : State) : State :=
  let s := s.withQueues (s.queues.map Queue.arrayFault)
  if s.window.qres = .pending then setQres .badState s else s

/-- 02 R33, R39: one descriptor is reinitialised. -/
def Queue.reinit (x : Queue) : Queue :=
  { x.emptied.unheld with
    state := .off, records := 0, payload := 0, pin := none, openRec := none, fault := none, claims := [] }

/-- 02 R39, 06 R105: every descriptor is reinitialised. -/
def reinitQueues (s : State) : State :=
  let s := s.withQueues (s.queues.map Queue.reinit)
  let s := s.withEvents { s.events with queueFault := Vector.replicate 24 false }
  s.withLink (if s.link.drainQ.isSome then retryCleared s.link else s.link)

/-! ### A discard's reads (02 R35) -/

/-- 01 R10, 05 R86: the first payload position of a record. -/
def firstPayload (h : Pos) (hsize : Nat) : Pos := h.add hsize

/-- 02 R35: the discard on a queue makes its next move: a read through its producer's slot, a step of the walk
by arithmetic, or the head advance. -/
def discardWork (q : QId) (d : Discard) (s : State) : Option State :=
  let x := s.queue q
  let c := d.producer.client
  if !slotFree s c then none
  else match d.stage with
    | .header => some (post c (readRequest .discardHeader d.fetch (headerSize x)) s)
    | .walk =>
      if d.unfetched = 0 then
        if !headerFits d.fetch.offset (headerSize x) ∧ 2 ≤ x.records then
          some (s.setQueue q { x with work := .discard { d with stage := .endLink } })
        else
          let next := if headerFits d.fetch.offset (headerSize x) ∧ 2 ≤ x.records then some d.fetch else none
          some (beginWork q (.discard { d with
            stage := .removal { length := d.length, endPos := d.fetch, next := next, run := d.run } }) s)
      else if d.fetch.offset = Config.blockBytes then
        some (post c (linkRead .discardLink d.fetch.block) s)
      else
        let n := min d.unfetched (Config.blockBytes - d.fetch.offset)
        some (s.setQueue q { x with work := .discard { d with fetch := d.fetch.add n, unfetched := d.unfetched - n } })
    | .endLink => some (post c (linkRead .discardEndLink d.fetch.block) s)
    | .removal _ => none

/-- 02 R35: the running discards act. -/
def discardMicro (s : State) : Option State :=
  allQueues.findSome? (fun q =>
    match (s.queue q).work with
    | .discard d => discardWork q d s
    | .idle | .remove _ _ | .cancel _ | .flush => none)

/-- The walked run after a link word is followed from block b (05 R82, R87). -/
def Run.follow (r : Run) (b : Nat) : Run := { r with prev := some b, count := r.count + 1 }

/-- 02 R35: a read of the discard on queue q is confirmed. -/
def discardConfirmed (q : QId) (d : Discard) (u : Purpose) (bs : List Byte) (s : State) : State :=
  let x := s.queue q
  let total := totalBlocks s.seq.config
  match u with
  | .discardHeader =>
    let h := headerOf x bs
    if Config.maxPayload < h.length then faultClaim q s
    else s.setQueue q { x with work := .discard { d with
      stage := .walk, length := h.length, unfetched := h.length, fetch := firstPayload d.fetch (headerSize x)
      run := { first := d.fetch.block, prev := none, count := 1 } } }
  | .discardLink =>
    match classifyLink total bs with
    | .names b => s.setQueue q { x with work := .discard { d with
        fetch := Pos.start b, run := d.run.follow d.fetch.block } }
    | .chainFault | .none => faultClaim q s
  | .discardEndLink =>
    match classifyLink total bs with
    | .names b => beginWork q (.discard { d with
        stage := .removal { length := d.length, endPos := d.fetch, next := some (Pos.start b), run := d.run } }) s
    | .chainFault | .none => faultClaim q s
  | _ => s

/-- 02 R35: a producer's slot confirms a read of the discard that runs for it. -/
def discardDelivered (p : Producer) (u : Purpose) (bs : List Byte) (s : State) : State :=
  match (s.writer p).queue with
  | none => s
  | some q =>
    match (s.queue q).work with
    | .discard d => if d.producer = p then discardConfirmed q d u bs s else s
    | .idle | .remove _ _ | .cancel _ | .flush => s

end Sys2Proof.Machine
end

