-- ==== Sys2Proof/Machine/Readers.lean ====
section
/-! DEFINITION. What the Pop Engine and the Link Engine's outbound side share: fetching payload (05 R87), the walk
to a record's end (05 R93, 06 R114), the remove claim (05 R94); and the Pop Engine (05). -/

namespace Sys2Proof.Machine

/-! ### The reader -/

/-- 05 R82, 06 R112: how many bytes the reader's buffer holds. -/
def readerRoom : Consumer → Nat
  | .pop => Config.fifoBytes
  | .link => Config.linkBufBytes

/-- 05 R87: bytes of the next payload read. -/
def readLength (f : Pos) (unfetched : Nat) : Nat :=
  min (min Config.burstBytes (Config.blockBytes - f.offset)) unfetched

/-- 05 R87, 06 R113: the reader's next read; it acts with no request of its own outstanding. -/
def fetchNext (c : Consumer) (s : State) : Option State :=
  let r := s.reader c
  match r.fetch with
  | none => none
  | some f =>
    if !slotFree s c.client || r.unfetched == 0 then none
    else if f.offset = Config.blockBytes then some (post c.client (linkRead .linkRead f.block) s)
    else
      let b := readLength f r.unfetched
      if b ≤ readerRoom c - r.buf.length then
        some (post c.client (readRequest .payloadRead f b)
          (s.setReader c { r with fetch := some (f.add b), unfetched := r.unfetched - b }))
      else none

/-- 05 R85, 06 R112: the header read, once the pin claim is taken. -/
def headerNext (c : Consumer) (s : State) : Option State :=
  match (s.reader c).header with
  | none => none
  | some h =>
    if slotFree s c.client then some (post c.client (readRequest .headerRead h (s.reader c).hsize) s) else none

/-- 05 R93: what the walk does at the record's end (E, e), with the records count as it stands. -/
def endWalk (x : Queue) (hsize : Nat) (e : Pos) : Walk :=
  if 2 ≤ x.records then
    if headerFits e.offset hsize then .ready (some e) else .needEndLink
  else .ready none

/-- 05 R93, 06 R114: the walk's next move, and the remove claim at its end (05 R94). -/
def walkNext (c : Consumer) (s : State) : Option State :=
  let r := s.reader c
  match r.queue, r.fetch with
  | some q, some f =>
    match r.walk with
    | .walking =>
      if r.unfetched = 0 then some (s.setReader c { r with walk := endWalk (s.queue q) r.hsize f })
      else if !slotFree s c.client then none
      else if f.offset = Config.blockBytes then some (post c.client (linkRead .linkRead f.block) s)
      else
        let n := min r.unfetched (Config.blockBytes - f.offset)
        some (s.setReader c { r with fetch := some (f.add n), unfetched := r.unfetched - n })
    | .needEndLink =>
      if slotFree s c.client then
        some (post c.client (linkRead .endLinkRead f.block) (s.setReader c { r with walk := .posted }))
      else none
    | .ready next =>
      some (makeClaim q (.remove c { length := r.hdr.length, endPos := f, next := next
                                     run := r.run.getD { first := f.block, prev := none, count := 1 } })
        (s.setReader c { r with walk := .claimed }))
    | .none | .posted | .claimed => none
  | _, _ => none

/-- 05 R87, 06 R113: a sound link word is followed. -/
def Reader.follow (r : Reader) (b : Nat) : Reader :=
  { r with fetch := some (Pos.start b), run := r.run.map (fun w => w.follow ((r.fetch.map (·.block)).getD w.first)) }

/-- 05 R86, 06 R112: the reader at a confirmed, sound header. -/
def Reader.presented (r : Reader) (h : Header) : Reader :=
  { r with hdr := h, remaining := h.length, unfetched := h.length
           fetch := r.header.map (fun p => firstPayload p r.hsize) }

/-- 05 R88, R92: a request of the reader is in flight and no longer wanted. -/
def readerUnwanted (c : Consumer) (s : State) : Bool := (s.reader c).unwanted || !slotFree s c.client

/-! ### The Pop Engine's faults and stops -/

/-- 05 R95: a chain fault met by the Pop Engine. -/
def popChainFault (s : State) : State :=
  let s := match s.pop.r.queue with
    | some q => faultClaim q s
    | none => s
  s.withPop { s.pop with state := .idle, r := s.pop.r.released, pinAns := none, last := .chainFault }

/-- 05 R96: the array fault at the Pop Engine. -/
def popArrayFault (s : State) : State :=
  match s.pop.state with
  | .idle => s.withPop { s.pop with r := { s.pop.r with unwanted := false } }
  | .loading | .ready | .releasing =>
    s.withPop { s.pop with state := .idle, r := { s.pop.r.released with unwanted := false }, pinAns := none
                           last := .arrayError }

/-- 05 R92: the engine takes no notice of the answers to its held pin claims on queue q. -/
def disownPins (q : QId) (s : State) : State :=
  s.setQueue q { s.queue q with
    claims := (s.queue q).claims.map (fun c => match c with | .pin .pop _ => .pin .pop false | _ => c) }

/-- 05 R91, R92: a RETURN taken in LOADING or READY, and an abort stop (R97). With the queue's claim hold set the unpin claim
waits among the held claims (02 R25). That it does so in LOADING with the pin taken too, where R92 says 'at once', is the
model's choice (log entry 37). -/
def popReturned (s : State) : State :=
  let r := { s.pop.r.released with unwanted := readerUnwanted .pop s }
  let t := s.withPop { s.pop with state := .idle, r := r, pinAns := none, last := .returned }
  match s.pop.r.queue with
  | none => t
  | some q => makeClaim q (.unpin .pop false) (disownPins q t)

/-- 05 R97: an abort stop at the Pop Engine. -/
def popAbort (s : State) : State :=
  match s.pop.state with
  | .loading | .ready => popReturned s
  | .idle | .releasing => s

/-! ### The Pop Engine's commands (05 R83 to R93) -/

/-- 05 R83: OSTAT's last result. -/
def setPopResult (r : PopResult) (s : State) : State := s.withPop { s.pop with last := r }

/-- 05 R84: the context at a taken SELECT. -/
def Pop.selecting (x : Pop) (q : QId) : Pop :=
  { x with state := .loading, pinAns := some .awaited
           r := { x.r with queue := some q, header := none, fetch := none, run := none, buf := [], unfetched := 0
                           remaining := 0, walk := .none } }

/-- 05 R83, R84: SELECT q. -/
def popSelect (q : QId) (s : State) : State :=
  match s.pop.state with
  | .idle =>
    if s.modeCtl.mode = .run then makeClaim q (.pin .pop true) (s.withPop (s.pop.selecting q))
    else setPopResult .badMode s
  | .loading | .ready | .releasing => setPopResult .busy s

/-- 05 R83, R93: RELEASE. A payload read in flight becomes unwanted, a link-word read is kept. -/
def popRelease (s : State) : State :=
  match s.pop.state with
  | .ready =>
    s.withPop { s.pop with state := .releasing
                           r := { s.pop.r with buf := [], walk := .walking
                                               unwanted := s.pop.r.unwanted || slotHolds s .popr .payloadRead } }
  | .idle | .loading | .releasing => setPopResult .notReady s

/-- 05 R83, R91, R92: RETURN. -/
def popReturn (s : State) : State :=
  match s.pop.state with
  | .loading | .ready => popReturned s
  | .idle | .releasing => setPopResult .notReady s

/-- 05 R90: the reader at a taken REWIND. -/
def Reader.rewound (r : Reader) : Reader :=
  { r with buf := [], remaining := r.hdr.length, unfetched := r.hdr.length
           fetch := r.header.map (fun p => firstPayload p r.hsize)
           run := r.header.map (fun p => { first := p.block, prev := none, count := 1 }) }

/-- 05 R83, R90: REWIND. -/
def popRewind (s : State) : State :=
  match s.pop.state with
  | .ready =>
    s.withPop { s.pop with r := { s.pop.r.rewound with unwanted := readerUnwanted .pop s }, last := .rewound }
  | .idle | .loading | .releasing => setPopResult .notReady s

/-- 05 R83, Table 5-1: an OCTL write. -/
def popControl (code : Byte) (s : State) : State :=
  if code = 0x01 then popRelease s
  else if code = 0x02 then popReturn s
  else if code = 0x03 then popRewind s
  else if h : 0x20 ≤ code.toNat ∧ code.toNat ≤ 0x37 then popSelect ⟨code.toNat - 0x20, by omega⟩ s
  else setPopResult .badCode s

/-- 05 R89: the byte a DATA read returns. -/
def popByte (x : Pop) : Byte :=
  match x.state with
  | .ready => if x.r.remaining = 0 then 0 else x.r.buf.headD 0
  | .idle | .loading | .releasing => 0

/-- 05 R89: what a DATA read does to the pop context. -/
def popRead (s : State) : State :=
  match s.pop.state with
  | .ready =>
    if s.pop.r.remaining = 0 then raise .popPastEnd s
    else match s.pop.r.buf with
      | [] => raise .popUnderrun s
      | _ :: rest =>
        s.withPop { s.pop with r := { s.pop.r with buf := rest, remaining := s.pop.r.remaining - 1 } }
  | .loading => raise .popUnderrun s
  | .idle | .releasing => s

/-! ### The Pop Engine's reads -/

/-- 05 R85, R87, R93: what the Pop Engine does next of its own. -/
def popMicro (s : State) : Option State :=
  match s.pop.state with
  | .idle => none
  | .loading => if s.pop.pinAns = some .taken then headerNext .pop s else none
  | .ready => fetchNext .pop s
  | .releasing => walkNext .pop s

/-- 05 R86: the header read is confirmed. -/
def popHeader (bs : List Byte) (s : State) : State :=
  match s.pop.r.queue with
  | none => s
  | some q =>
    let h := headerOf (s.queue q) bs
    if Config.maxPayload < h.length then popChainFault s
    else s.withPop { s.pop with state := .ready, r := s.pop.r.presented h }

/-- 05 R86, R87, R92, R93: a read of the Pop Engine is confirmed. -/
def popConfirmed (u : Purpose) (bs : List Byte) (s : State) : State :=
  let r := s.pop.r
  let total := totalBlocks s.seq.config
  if r.unwanted then s.withPop { s.pop with r := { r with unwanted := false } }
  else match u with
    | .headerRead => popHeader bs s
    | .payloadRead => s.withPop { s.pop with r := { r with buf := r.buf ++ bs } }
    | .linkRead =>
      match classifyLink total bs with
      | .names b => s.withPop { s.pop with r := r.follow b }
      | .chainFault | .none => popChainFault s
    | .endLinkRead =>
      match classifyLink total bs with
      | .names b => s.withPop { s.pop with r := { r with walk := .ready (some (Pos.start b)) } }
      | .chainFault | .none => popChainFault s
    | _ => s

end Sys2Proof.Machine
end

