-- ==== Sys2Proof/Machine/LinkEngine.lean ====
section
/-! DEFINITION. The Link Engine (06): the direction arbiter, the grant, the outbound side, the inbound side's bytes,
the link timer, START, STOP, timeouts and the array fault. -/

namespace Sys2Proof.Machine

/-! ### Control bytes (06 Table 6-1) -/

def beginCode : Byte := 0xB1
def endCode : Byte := 0xBE
def abortCode : Byte := 0xBA

/-- 06 R103: the greatest declared length is that of a record. -/
def declaredTooLong (n : Nat) : Bool := decide (Config.maxPayload < n)

/-! ### Small updates -/

def setLinkResult (r : LinkResult) (s : State) : State := s.withLink { s.link with last := r }

/-- 06 R112: the outbound context gives its record up. -/
def Outbound.resting (o : Outbound) : Outbound :=
  { o with state := .idle, r := o.r.released, frame := none, verdict := none, settled := false }

/-- 06 R114: the link returns to IDLE at the end of a send. -/
def endSend (l : Link) : Link :=
  { l with state := .idle, turn := if l.lreq then .reverse else .forward }

/-- 06 R110, R111: the link leaves GRANTED or RECLAIMING for IDLE. -/
def endGrant (l : Link) : Link :=
  stopTimer { restLines l with state := .idle, turn := .forward, tooLate := false, lreqFell := false }

/-- 06 R102, R110: the measure of an idle grant ends. -/
def stopIdleGrant (l : Link) : Link :=
  match l.timer with
  | some t => if t.use = .idleGrant then stopTimer l else l
  | none => l

/-- 06 R110: the engine reclaims the link. -/
def reclaim (l : Link) : Link :=
  let l := stopIdleGrant l
  { l with lines := { l.lines with lgnt := false }, state := .reclaiming, tooLate := false, lreqFell := false }

/-- 06 R99, R108, R120, R121: every line at rest, the timer stopped, no byte in progress. -/
def dropLines (l : Link) : Link :=
  stopTimer { restLines l with sending := none, abortDue := false, tooLate := false, lreqFell := false }

/-! ### The arbiter (06 R109, R110) -/

/-- 06 R109: the ready condition. -/
def linkReady (s : State) : Bool :=
  match s.link.drainQ with
  | none => false
  | some q =>
    let x := s.queue q
    x.state == .active && x.consumer == .link && x.records != 0 && x.pin.isNone && !x.held

/-- 06 R112: the outbound context for the head record of queue x. -/
def Outbound.taking (o : Outbound) (q : QId) (x : Queue) (h : Pos) : Outbound :=
  { o with
    state := .loading, frame := none, verdict := none, settled := false
    r := { o.r with queue := some q, header := some h, hsize := headerSize x, fetch := none, unfetched := 0
                    remaining := 0, buf := [], walk := .none
                    run := some { first := h.block, prev := none, count := 1 } } }

/-- 06 R109 case 1, R112: the pin claim is made and taken, and the link enters SENDING. -/
def beginSend (s : State) : State :=
  match s.link.drainQ with
  | none => s
  | some q =>
    let x := s.queue q
    let h := x.head.getD (Pos.start 0)
    let s := s.setQueue q (pinned .link x)
    let l := if s.link.retryRecord = some h then s.link else { s.link with retryCount := 0, retryRecord := some h }
    s.withLink { l with state := .sending, out := l.out.taking q x h }

/-- 06 R109 case 2, R99: the link is granted to the peer. -/
def grant (l : Link) : Link :=
  { grantLines l with grants := 0, state := .granted, tooLate := false, lreqFell := false }

/-- 06 R109: the arbiter's choice in IDLE. -/
def arbiter (s : State) : Option State :=
  if s.modeCtl.mode ≠ .run then some (s.withLink { s.link with state := .off })
  else if linkReady s ∧ (s.link.lreq = false ∨ s.link.turn = .forward) then some (beginSend s)
  else if s.link.lreq ∧ (!linkReady s ∨ s.link.turn = .reverse) then some (s.withLink (grant s.link))
  else none

/-- 06 R110: the idle grant is measured while a record is ready and no byte is in progress. -/
def idleGrantTimer (s : State) : Option State :=
  match s.link.timer with
  | none =>
    if linkReady s ∧ s.link.receive = .complete then some (s.withLink (startTimer .idleGrant s.link)) else none
  | some t => if t.use = .idleGrant ∧ !linkReady s then some (s.withLink (stopTimer s.link)) else none

/-- 06 R110: what the link does in GRANTED of its own. -/
def grantedMicro (s : State) : Option State :=
  if s.link.lreq = false then some (s.withLink (endGrant s.link))
  else if s.modeCtl.mode = .stopping ∨ (linkReady s ∧ s.link.quota ≤ s.link.grants) then
    some (s.withLink (reclaim s.link))
  else idleGrantTimer s

/-- 06 R111: what the link does in RECLAIMING of its own. -/
def reclaimingMicro (s : State) : Option State :=
  if s.link.tooLate then none
  else if s.link.lreq = false ∨ s.link.lreqFell then some (s.withLink (endGrant s.link))
  else if s.link.timer = none ∧ s.link.receive = .complete then some (s.withLink (startTimer .lreqFall s.link))
  else none

/-- 06 R113, R114, R115: the link leaves SENDING when its record is settled or abandoned and no byte is in
progress; before that, an ABORT that is due is offered. -/
def sendingMicro (s : State) : Option State :=
  if s.link.sending ≠ none then none
  else if s.link.abortDue then
    some (s.withLink (offerByte .abortByte true abortCode { s.link with abortDue := false }))
  else if s.link.out.state = .idle then some (s.withLink (endSend s.link))
  else none

/-- 06 Table 6-3: what the link does of its own. -/
def linkMicro (s : State) : Option State :=
  match s.link.state with
  | .off | .fault | .receiving => none
  | .idle => arbiter s
  | .granted => grantedMicro s
  | .reclaiming => reclaimingMicro s
  | .sending => sendingMicro s

/-! ### The outbound side (06 R112 to R115) -/

/-- 06 R113: the next byte of the frame is offered, with no byte in progress. -/
def offerNext (s : State) : Option State :=
  let l := s.link
  let r := l.out.r
  let go (i : FrameItem) (control : Bool) (b : Byte) (next : Option FrameItem) : Option State :=
    some (s.withLink (offerByte i control b { l with out := { l.out with frame := next } }))
  if l.state ≠ .sending ∨ l.sending ≠ none ∨ l.abortDue then none
  else match l.out.frame with
    | some .beginByte => go .beginByte true beginCode (some .tag)
    | some .tag => go .tag false r.hdr.tag (some .lengthHigh)
    | some .lengthHigh => go .lengthHigh false (byteOf r.hdr.length 1) (some .lengthLow)
    | some .lengthLow =>
      go .lengthLow false (byteOf r.hdr.length 0) (some (if r.remaining = 0 then .endByte else .payload))
    | some .payload =>
      match r.buf with
      | [] => none
      | b :: rest =>
        some (s.withLink (offerByte .payload false b { l with out := { l.out with
          frame := some (if r.remaining ≤ 1 then .endByte else .payload)
          r := { r with buf := rest, remaining := r.remaining - 1 } } }))
    | some .endByte => go .endByte true endCode none
    | some .abortByte | none => none

/-- 06 R115: the flags byte with RETRIED set is written over the record's. -/
def retriedWrite (s : State) : Option State :=
  let r := s.link.out.r
  match r.walk, r.header with
  | .walking, some h =>
    if slotFree s .linkr then
      some (post .linkr (writeRequest .flagWrite (h.add 3) [r.hdr.flags ||| flagRetried])
        (s.withLink { s.link with out := { s.link.out with r := { r with walk := .posted } } }))
    else none
  | _, _ => none

/-- 06 R114, R115: SETTLING. -/
def settlingMicro (s : State) : Option State :=
  if s.link.out.settled then
    if s.link.state ≠ .sending ∨ s.link.sending = none then
      some (s.withLink { s.link with out := s.link.out.resting })
    else none
  else match s.link.out.verdict with
    | some .accept => walkNext .link s
    | some .reject => retriedWrite s
    | none => none

/-- 06 R112 to R115: what the outbound side does of its own. -/
def outboundMicro (s : State) : Option State :=
  match s.link.out.state with
  | .idle => none
  | .loading => headerNext .link s
  | .streaming => (fetchNext .link s).or (offerNext s)
  | .settling => settlingMicro s

/-- 06 R113, R114: a chain fault met by the outbound side. ABORT is due in STREAMING alone. -/
def outChainFault (s : State) : State :=
  let due := s.link.out.state == .streaming && s.link.state == .sending
  let s := match s.link.out.r.queue with
    | some q => faultClaim q s
    | none => s
  s.withLink { retryCleared s.link with out := s.link.out.resting, abortDue := due, last := .chainFault }

/-- 06 R112: the header read is confirmed. -/
def outHeader (bs : List Byte) (s : State) : State :=
  match s.link.out.r.queue with
  | none => s
  | some q =>
    let h := headerOf (s.queue q) bs
    if declaredTooLong h.length then outChainFault s
    else s.withLink { s.link with out := { s.link.out with
      state := .streaming, frame := some .beginByte, r := s.link.out.r.presented h } }

/-- 06 R115, 02 R29: the retry limit is exceeded: the hold claim and LINK_REJECT_LIMIT. -/
def limitHold (q : QId) (s : State) : State :=
  let s := if (s.queue q).state = .active then s.setQueue q { s.queue q with state := .held } else s
  let s := raise .linkRejectLimit (s.withEvents { s.events with rejectQueue := q })
  s.withLink { retryCleared s.link with last := .limitHold }

/-- 06 R115: the flag write is confirmed. -/
def flagWritten (s : State) : State :=
  match s.link.out.r.queue with
  | none => s
  | some q =>
    let s := if s.link.retryLimit < s.link.retryCount then limitHold q s else setLinkResult .rejected s
    makeClaim q (.unpin .link true)
      (s.withLink { s.link with out := { s.link.out with r := { s.link.out.r with walk := .claimed } } })

/-- 06 R112 to R115: a request of the outbound side is confirmed. -/
def outConfirmed (u : Purpose) (bs : List Byte) (s : State) : State :=
  let r := s.link.out.r
  let total := totalBlocks s.seq.config
  let put (x : Reader) : State := s.withLink { s.link with out := { s.link.out with r := x } }
  if r.unwanted then put { r with unwanted := false }
  else match u with
    | .headerRead => outHeader bs s
    | .payloadRead => put { r with buf := r.buf ++ bs }
    | .linkRead =>
      match classifyLink total bs with
      | .names b => put (r.follow b)
      | .chainFault | .none => outChainFault s
    | .endLinkRead =>
      match classifyLink total bs with
      | .names b => put { r with walk := .ready (some (Pos.start b)) }
      | .chainFault | .none => outChainFault s
    | .flagWrite => flagWritten s
    | _ => s

/-! ### The handshake as sender (06 R100) -/

/-- 06 R100: LACK rises: LSTB drops and the fall of LACK is awaited. -/
def byteTaken (i : FrameItem) (l : Link) : Link :=
  startTimer .lackFall { l with lines := { l.lines with lstb := some false }, sending := some (i, true) }

/-- The byte offered whose LACK is awaited, in SENDING. -/
def offered (l : Link) : Option FrameItem :=
  match l.state, l.sending with
  | .sending, some (i, false) => some i
  | _, _ => none

/-- 06 R100: LACK rises for a byte other than END. -/
def lackRise (s : State) : State :=
  match offered s.link with
  | none => s
  | some i => if i = .endByte then s else s.withLink (byteTaken i s.link)

/-- 06 R114: LACK rises for END with LRJ low. -/
def peerAccept (s : State) : State :=
  if offered s.link = some .endByte then
    let l := byteTaken .endByte s.link
    s.withLink { l with sent := sat16 (l.sent + 1)
                        out := { l.out with state := .settling, verdict := some .accept
                                            r := { l.out.r with walk := .walking } } }
  else s

/-- 06 R115: LACK rises for END with LRJ high. -/
def peerReject (s : State) : State :=
  if offered s.link = some .endByte then
    let l := byteTaken .endByte s.link
    s.withLink { l with rejects := sat16 (l.rejects + 1), retryCount := l.retryCount + 1
                        out := { l.out with state := .settling, verdict := some .reject
                                            r := { l.out.r with walk := .walking } } }
  else s

/-- 06 R100: LACK falls: the byte is complete. -/
def lackFall (s : State) : State :=
  match s.link.state, s.link.sending with
  | .sending, some (_, true) => s.withLink (stopTimer { s.link with sending := none })
  | _, _ => s

/-! ### The inbound side (06 R116 to R119) -/

/-- 06 R116: the context at BEGIN. -/
def inboundBegin (s : State) : State :=
  match s.link.fillQ with
  | none => s.withLink { s.link with inb := { Inbound.reset with state := .discarding, verdict := some .reject } }
  | some q =>
    makeClaim q (.openRec .link)
      (s.withLink { s.link with inb := { Inbound.reset with
        state := .filling, w := { Writer.reset with queue := some q, openAns := some .awaited } } })

/-- 06 R117: a payload byte of the record. -/
def payloadByte (b : Byte) (declared : Nat) (s : State) : State :=
  let i := s.link.inb
  if declared < i.frameBytes + 1 - 3 then inboundReject (s.withLink (ackByte .plain false s.link))
  else if i.w.buf.length < Config.linkBufBytes then
    s.withLink (ackByte .plain false { s.link with inb := { i with
      frameBytes := i.frameBytes + 1, w := { i.w with buf := i.w.buf ++ [b] } } })
  else
    s.withLink { s.link with
      receive := .withheld .plain, inb := { i with frameBytes := i.frameBytes + 1, held := some b } }

/-- 06 R117: a data byte of the frame, in FILLING. -/
def frameData (b : Byte) (s : State) : State :=
  let i := s.link.inb
  let l := ackByte .plain false s.link
  match i.frameBytes, i.declared with
  | 0, _ => s.withLink { l with inb := { i with frameBytes := 1, w := { i.w with tag := some b } } }
  | 1, _ => s.withLink { l with inb := { i with frameBytes := 2, lengthHigh := some b } }
  | 2, _ =>
    let n := natOfBytes [i.lengthHigh.getD 0, b]
    let s := s.withLink { l with inb := { i with frameBytes := 3, declared := some n } }
    if declaredTooLong n then inboundReject s else s
  | _, d => payloadByte b (d.getD 0) s

/-- 06 R117, R119: a data byte in RECEIVING. -/
def receiveData (b : Byte) (s : State) : State :=
  match s.link.inb.state with
  | .filling => frameData b s
  | .idle | .committing | .cancelling | .discarding => s.withLink (ackByte .plain false s.link)

/-- 06 R118: END matches the declared length. -/
def lengthMatches (i : Inbound) : Bool :=
  match i.declared with
  | none => false
  | some n => decide (3 ≤ i.frameBytes) && i.frameBytes - 3 == n

/-- 06 R118, R119: END in RECEIVING; its LACK is withheld until the record is committed or abandoned. -/
def receiveEnd (s : State) : State :=
  let s := s.withLink { s.link with receive := .withheld .endByte }
  match s.link.inb.state with
  | .filling =>
    if lengthMatches s.link.inb then s.withLink { s.link with inb := { s.link.inb with state := .committing } }
    else inboundReject s
  | .idle | .committing | .cancelling | .discarding => s

/-- 06 R119: ABORT in RECEIVING. -/
def receiveAbort (s : State) : State :=
  let s := s.withLink { s.link with receive := .withheld .abortByte }
  match s.link.inb.state with
  | .filling | .committing => inboundCancel none s
  | .idle | .cancelling | .discarding => s

/-- 06 R104: a byte that does not fit the frame. -/
def strayByte (s : State) : State := raise .linkProtocol (s.withLink (ackByte .plain false s.link))

/-- 06 R101: a rise of LSTB is an event here. -/
def listening (l : Link) : Bool :=
  (l.state == .granted || l.state == .receiving || l.state == .reclaiming) && l.receive == .complete

/-- 06 R110, R111: BEGIN outside a frame. -/
def frameBegins (s : State) : State :=
  let l := ackByte .plain false s.link
  if s.link.state = .granted then inboundBegin (s.withLink { l with state := .receiving })
  else s.withLink { l with tooLate := true, lreqFell := false }

/-- 06 R111: a byte of a too-late record. -/
def tooLateByte (control : Bool) (b : Byte) (s : State) : State :=
  if control = false then s.withLink (ackByte .plain false s.link)
  else if b = endCode then s.withLink (ackByte .endByte true s.link)
  else if b = abortCode then s.withLink (ackByte .abortByte false s.link)
  else strayByte s

/-- 06 R116 to R119: a byte in RECEIVING. -/
def receivingByte (control : Bool) (b : Byte) (s : State) : State :=
  if control = false then receiveData b s
  else if b = endCode then receiveEnd s
  else if b = abortCode then receiveAbort s
  else strayByte s

/-- 06 R101: LSTB rises with this byte and this level of the LCMD line; the wait for it ends (06 R102). -/
def lstbRise (control : Bool) (b : Byte) (s : State) : State :=
  if !listening s.link then s
  else
    let s := s.withLink (stopTimer s.link)
    if s.link.state = .receiving then receivingByte control b s
    else if s.link.state = .reclaiming ∧ s.link.tooLate then tooLateByte control b s
    else if control ∧ b = beginCode then frameBegins s
    else strayByte s

/-- 06 R110, R118, R119: END or ABORT of a record under the grant is complete. -/
def recordEnds (l : Link) : Link :=
  { l with inb := Inbound.reset, grants := min 15 (l.grants + 1), state := .granted }

/-- 06 R101, R102: LSTB falls: LACK and LRJ drop and the byte is complete. -/
def lstbFalls (k : ByteKind) (l : Link) : Link :=
  let l := stopTimer { l with lines := { l.lines with lack := some false, lrj := some false }, receive := .complete }
  match k with
  | .plain => if l.state = .receiving ∨ l.tooLate then startTimer .nextLstb l else l
  | .endByte | .abortByte => if l.state = .receiving then recordEnds l else { l with tooLate := false }

/-- 06 R101: the fall of LSTB is an event while LACK is high. -/
def lstbFall (s : State) : State :=
  match s.link.receive with
  | .acked k => s.withLink (lstbFalls k s.link)
  | .complete | .withheld _ => s

/-- 06 R101, R119: the END or ABORT whose LACK is withheld is answered once the context has no outstanding work. -/
def answerWithheld (s : State) : Option State :=
  match s.link.receive with
  | .withheld .endByte => some (s.withLink (ackByte .endByte true s.link))
  | .withheld .abortByte => some (s.withLink (ackByte .abortByte false s.link))
  | .withheld .plain | .complete | .acked _ => none

/-- 06 R117: the held byte joins the in-buffer when there is room. -/
def heldJoins (s : State) : Option State :=
  let i := s.link.inb
  match i.held with
  | none => none
  | some b =>
    if i.w.buf.length < Config.linkBufBytes then
      some (s.withLink (ackHeld { s.link with inb := { i with w := { i.w with buf := i.w.buf ++ [b] } } }))
    else none

/-- 06 R116 to R119: what the inbound side does of its own beside its writer. -/
def inboundMicro (s : State) : Option State :=
  match s.link.inb.state with
  | .idle | .committing => none
  | .filling => heldJoins s
  | .cancelling =>
    if s.link.inb.cancelDone then
      if s.link.state = .receiving then answerWithheld s
      else some (s.withLink { s.link with inb := Inbound.reset })
    else none
  | .discarding =>
    if s.link.state = .receiving then answerWithheld s
    else some (s.withLink { s.link with inb := Inbound.reset })

/-! ### Stops, timeouts and faults (06 R107, R108, R120, R121) -/

/-- 06 R108, R120: the outbound context at a STOP or a timeout. -/
def outAbandon (s : State) : State :=
  match s.link.out.state with
  | .idle | .settling => s
  | .loading | .streaming =>
    let o := s.link.out
    let t := s.withLink { s.link with out := { o.resting with
      r := { o.r.released with unwanted := readerUnwanted .link s } } }
    match o.r.queue with
    | some q => makeClaim q (.unpin .link false) t
    | none => t

/-- 06 R108, R120: the inbound context at a STOP or a timeout. -/
def inAbandon (s : State) : State :=
  match s.link.inb.state with
  | .filling | .committing => inboundReject s
  | .discarding => s.withLink { s.link with inb := Inbound.reset }
  | .idle | .cancelling => s

/-- 06 R108: STOP. -/
def linkStop (s : State) : State :=
  if s.link.state = .off then setLinkResult .stopped s
  else
    let s := inAbandon (outAbandon s)
    s.withLink { dropLines s.link with state := .off, last := .stopped }

/-- 06 R120: the link timer expires in a timed wait. -/
def linkTimeout (s : State) : State :=
  let s := inAbandon (outAbandon (raise .linkTimeout s))
  s.withLink { dropLines s.link with state := .fault, last := .timeout }

/-- 06 R107: the answer to START. -/
def startAnswer (s : State) : LinkResult :=
  if s.modeCtl.mode ≠ .run then .badMode
  else if s.link.state ≠ .off then .badState
  else if s.link.out.state ≠ .idle ∨ s.link.inb.state ≠ .idle ∨ s.link.out.r.unwanted then .busy
  else if (s.link.drainQ.any (fun q => (s.queue q).consumer != .link))
      ∨ (s.link.fillQ.any (fun q => (s.queue q).producer != .link)) then .badBinding
  else .started

/-- 06 R107: START. -/
def linkStart (s : State) : State :=
  if startAnswer s = .started then
    s.withLink { s.link with state := .idle, turn := .forward, grants := 0, last := .started }
  else setLinkResult (startAnswer s) s

/-- 06 Table 6-2: an LCMD register write. -/
def linkControl (code : Byte) (s : State) : State :=
  if code = 0x01 then linkStart s
  else if code = 0x02 then linkStop s
  else setLinkResult .badCode s

/-- 06 R121: the array fault at the Link Engine. -/
def linkArrayFault (s : State) : State :=
  let l := dropLines (retryCleared s.link)
  s.withLink { l with
    state := .off, last := .arrayError, inb := Inbound.reset
    out := { l.out.resting with r := { l.out.r.released with unwanted := false } } }

/-- 06 R109 to R111: LREQ rises. -/
def lreqRise (s : State) : State := s.withLink { s.link with lreq := true }

/-- 06 R110, R111: LREQ falls. -/
def lreqFall (s : State) : State :=
  s.withLink { s.link with
    lreq := false, lreqFell := s.link.lreqFell || (s.link.state == .reclaiming && s.link.tooLate) }

/-- 06 R102, R120: the timer expires in one of the timed waits. -/
def timedOut (s : State) : State :=
  match s.link.timer with
  | some t => if t.use = .idleGrant then s else linkTimeout s
  | none => s

/-- 06 R110: an idle grant has run out. -/
def idleGrantOver (s : State) : State :=
  match s.link.timer with
  | some t => if t.use = .idleGrant ∧ s.link.state = .granted then s.withLink (reclaim s.link) else s
  | none => s

end Sys2Proof.Machine
end

