-- ==== Sys2Proof/Machine/Sequencer.lean ====
section
/-! DEFINITION. The Array Sequencer (07, 08): the choice, access times, completions, refresh, the unconfirmed list,
ALERT, recovery, the array fault, ARRAY_ON and ARRAY_OFF; FORMAT (03 R55 to R57); delivery of confirmations. -/

namespace Sys2Proof.Machine

/-! ### The bank table (07 R132) -/

/-- 07 R132: every entry CLOSED. -/
def closedBanks (c : ArrayConfig) : List (Option Nat) := List.replicate c.banks none

/-- The row open in a bank. -/
def openRow (t : List (Option Nat)) (bank : Nat) : Option Nat := t.getD bank none

/-- 07 R132: the request is a hit. -/
def isHit (x : Seq) (r : Request) : Bool := openRow x.bankTable (bankOf x.config r.block) == some (rowOf x.config r.block)

/-- 07 R138: the accessed bank is OPEN at the accessed row. -/
def opened (x : Seq) (r : Request) : List (Option Nat) :=
  x.bankTable.set (bankOf x.config r.block) (some (rowOf x.config r.block))

/-- Every bank closed. -/
def closeBanks (x : Seq) : Seq := { x with bankTable := closedBanks x.config }

/-! ### Times (07 R137, 08 R140) -/

/-- 07 R137: clocks of the burst step. -/
def burstClocks (c : ArrayConfig) (length : Nat) : Nat := c.tBurst * ((length + 7) / 8)

/-- 07 R137: clocks of the close and open steps. -/
def rowClocks (x : Seq) (r : Request) : Nat :=
  match openRow x.bankTable (bankOf x.config r.block) with
  | none => x.config.tOpen
  | some row => if row = rowOf x.config r.block then 0 else x.config.tClose + x.config.tOpen

/-- 07 R137: clocks of an access. -/
def accessClocks (x : Seq) (r : Request) : Nat := rowClocks x r + burstClocks x.config r.length

/-- 08 R140: clocks of a refresh. -/
def refreshClocks (x : Seq) : Nat :=
  (if x.bankTable.any (·.isSome) then x.config.tClose else 0) + (x.config.tOpen + x.config.tClose)

/-- 08 R139: clocks of a refresh interval. -/
def refreshInterval (c : ArrayConfig) : Nat := c.interval * Config.refreshUnit

/-! ### The choice (07 R135, R136) -/

/-- The request of a WAITING slot. -/
def Slot.waitingRequest : Slot → Option Request
  | .waiting r => some r
  | .empty | .issued _ | .unconfirmed _ => none

/-- The waiting request of a client. -/
def waitingOf (x : Seq) (c : Client) : Option Request := (x.slots.get c).waitingRequest

/-- What the choice decides. -/
inductive Choice where
  | refresh
  | request (c : Client)
deriving DecidableEq, Repr

/-- 07 R135: the first client of the wait list whose request satisfies a test. -/
def firstWaiting (x : Seq) (p : Request → Bool) : Option Client :=
  x.waitList.find? (fun c => (waitingOf x c).any p)

/-- 07 R135: the five cases, in order. -/
def choice (x : Seq) : Option Choice :=
  if x.config.urgency ≤ x.debt then some .refresh
  else match firstWaiting x (fun r => r.passed == Config.maxPassed) with
    | some c => some (.request c)
    | none =>
      match firstWaiting x (isHit x) with
      | some c => some (.request c)
      | none =>
        match firstWaiting x (fun _ => true) with
        | some c => some (.request c)
        | none => if 1 ≤ x.debt then some .refresh else none

/-- 07 R136: a waiting request is passed over. -/
def passOver : Slot → Slot
  | .waiting r => .waiting { r with passed := min Config.maxPassed (r.passed + 1) }
  | .empty => .empty
  | .issued r => .issued r
  | .unconfirmed r => .unconfirmed r

/-- The same change at every slot. -/
def Slots.map (f : Slot → Slot) (x : Slots) : Slots :=
  { pool := f x.pool, pushw := f x.pushw, lnkw := f x.lnkw, popr := f x.popr, linkr := f x.linkr }

/-- 07 R135, R136, R137: a request is chosen and its access begins. -/
def beginAccess (c : Client) (r : Request) (x : Seq) : Seq :=
  { x with
    state := .accessing, waitList := x.waitList.erase c, op := some (.access c, accessClocks x r)
    slots := (x.slots.map passOver).set c (.issued { r with passed := 0 }) }

/-- 08 R140: a refresh begins. -/
def beginRefresh (x : Seq) : Seq := { closeBanks x with state := .refreshing, op := some (.refresh, refreshClocks x) }

/-- 07 R135: a choice is made at this event. -/
def choosing (x : Seq) : Bool := x.state == .ready && x.unconfirmed.length < Config.unconfirmedMax

/-- 07 R135: the sequencer's choice. -/
def choiceMicro (s : State) : Option State :=
  if choosing s.seq then
    match choice s.seq with
    | none => none
    | some .refresh => some (s.withSeq (beginRefresh s.seq))
    | some (.request c) => (waitingOf s.seq c).map (fun r => s.withSeq (beginAccess c r s.seq))
  else none

/-! ### The array fault (08 R147) -/

/-- 08 R147: the sequencer at the array fault. -/
def Seq.faulted (x : Seq) : Seq :=
  { x with state := .fault, op := none, unconfirmed := [], replay := [], waitList := [], slots := Slots.empty
           timer := none, alertPending := false }

/-- 04 R79: the array fault at the Push Engine. -/
def pushArrayFault (s : State) : State :=
  match s.push.state with
  | .idle => s
  | .awaitTag | .filling | .committing | .cancelling => pushIdle .arrayError s

/-- 09 R149: the array fault at the Mode Controller. -/
def modeArrayFault (s : State) : State := s.withModeCtl { s.modeCtl with mode := .halted, stop := none }

/-- 08 R147: the array fault, at every block. -/
def arrayFault (s : State) : State :=
  modeArrayFault (linkArrayFault (popArrayFault (pushArrayFault (queuesArrayFault (poolArrayFault
    (raise .arrayFault (s.withSeq s.seq.faulted)))))))

/-! ### Recovery (08 R144 to R146) -/

/-- 08 R144: an entry takes a strike. -/
def Entry.struck (e : Entry) : Entry := { e with replays := e.replays + 1 }

/-- 08 R144, R146: a strike against some entry would be its fourth. -/
def lastStrike (x : Seq) : Bool := x.unconfirmed.any (fun e => e.replays == Config.maxReplay)

/-- 08 R144, R146: recovery begins, or begins again. -/
def Seq.recovering (x : Seq) : Seq :=
  { x with state := .recovering, replay := x.unconfirmed.map Entry.struck ++ x.replay, unconfirmed := []
           alertPending := false, op := some (.recoveryCloseAll, x.config.tClose) }

/-- 08 R144, R146: an ALERT is taken up. -/
def takeUp (s : State) : State :=
  if lastStrike s.seq then arrayFault s else raise .arrayAlert (s.withSeq s.seq.recovering)

/-- 08 R145: the next entry of the replay list is re-issued, or recovery ends. -/
def reissueNext (x : Seq) : Seq :=
  match x.replay with
  | [] => { x with state := .ready, op := none }
  | e :: rest =>
    match e.op with
    | .request c r =>
      { x with replay := rest, slots := x.slots.set c (.issued r), op := some (.reissue e, accessClocks x r) }
    | .refresh => { closeBanks x with replay := rest, op := some (.reissue e, refreshClocks x) }

/-- 08 R143, R145: after a completion, a pending ALERT is taken up, or the sequencer goes on. -/
def afterCompletion (goOn : Seq → Seq) (s : State) : State :=
  if s.seq.alertPending then takeUp s else s.withSeq (goOn s.seq)

/-- The sequencer is READY with no operation in progress. -/
def Seq.idle (x : Seq) : Seq := { x with state := .ready, op := none }

/-- 08 R141: a new entry, its alert window beginning. -/
def newEntry (c : ArrayConfig) (op : Operation) (bytes : List Byte) : Entry :=
  { op := op, bytes := bytes, replays := 0, window := c.window }

/-- 08 R141: an entry joins the end of the list. -/
def Seq.join (x : Seq) (e : Entry) : Seq := { x with unconfirmed := x.unconfirmed ++ [e], op := none }

/-! ### Completions (07 R138, 08 R140, R145) -/

/-- 07 R137: the bytes an access moves, under the array's reply. -/
def movedBytes (m : ArrayMem) (r : Request) (reply : ArrayReply) : List Byte :=
  replyBytes (match r.kind with
    | .read => arrayBytes m (arrayAddr r.block r.offset) r.length
    | .write => r.data) reply

/-- 07 R138: what a write leaves in the array. -/
def storeAccess (m : ArrayMem) (r : Request) (bytes : List Byte) : ArrayMem :=
  match r.kind with
  | .read => m
  | .write => { m with cells := arrayPut m.cells (arrayAddr r.block r.offset) bytes }

/-- 08 R141: the bytes an entry holds: those of a READ. -/
def heldBytes (r : Request) (bytes : List Byte) : List Byte :=
  match r.kind with
  | .read => bytes
  | .write => []

/-- 07 R138: an access of a client completes. -/
def accessDone (c : Client) (r : Request) (reply : ArrayReply) (s : State) : State :=
  let bytes := movedBytes s.array r reply
  let x := s.seq
  let s := s.withArray (storeAccess s.array r bytes)
  let s := s.withSeq { x.join (newEntry x.config (.request c r) (heldBytes r bytes)) with
    bankTable := opened x r, slots := x.slots.set c (.unconfirmed r), state := .ready }
  afterCompletion Seq.idle s

/-- 08 R145: a re-issued entry completes. -/
def reissueDone (e : Entry) (reply : ArrayReply) (s : State) : State :=
  let x := s.seq
  match e.op with
  | .refresh => afterCompletion reissueNext (s.withSeq (x.join { e with window := x.config.window }))
  | .request c r =>
    let bytes := movedBytes s.array r reply
    let s := s.withArray (storeAccess s.array r bytes)
    let s := s.withSeq { x.join { e with bytes := heldBytes r bytes, window := x.config.window } with
      bankTable := opened x r, slots := x.slots.set c (.unconfirmed r) }
    afterCompletion reissueNext s

/-- The access in progress: its client and request. -/
def accessInProgress (x : Seq) : Option (Client × Request) :=
  match x.op with
  | some (.access c, _) =>
    match x.slots.get c with
    | .issued r => some (c, r)
    | .empty | .waiting _ | .unconfirmed _ => none
  | _ => none

/-- The re-issue in progress. -/
def reissueInProgress (x : Seq) : Option Entry :=
  match x.op with
  | some (.reissue e, _) => some e
  | _ => none

/-- 08 R140: a refresh chosen from the debt completes. -/
def refreshDone (s : State) : State :=
  match s.seq.op with
  | some (.refresh, _) =>
    let x := s.seq
    afterCompletion Seq.idle (s.withSeq { x.join (newEntry x.config .refresh []) with
      debt := x.debt - 1, state := .ready })
  | _ => s

/-- 07 R129: the starting close-all completes and the start refresh begins. -/
def startClosed (s : State) : State :=
  match s.seq.op with
  | some (.startCloseAll, _) =>
    let x := closeBanks s.seq
    s.withSeq { x with op := some (.startRefresh, refreshClocks x) }
  | _ => s

/-- 07 R129: the start refresh completes. -/
def startRefreshed (s : State) : State :=
  match s.seq.op with
  | some (.startRefresh, _) =>
    let x := s.seq
    afterCompletion Seq.idle (s.withSeq { x.join (newEntry x.config .refresh []) with
      timer := some (refreshInterval x.config), state := .ready })
  | _ => s

/-- 08 R145, R146: the close-all of recovery completes. -/
def recoveryClosed (s : State) : State :=
  match s.seq.op with
  | some (.recoveryCloseAll, _) => afterCompletion reissueNext (s.withSeq { closeBanks s.seq with op := none })
  | _ => s

/-! ### ALERT and the refresh timer (08 R139, R143) -/

/-- 08 R143: the alert counter rises. -/
def Seq.counted (x : Seq) : Seq := { x with alerts := sat16 (x.alerts + 1) }

/-- 08 R143: during the start refresh an ALERT is pending; during the starting close-all it is not. -/
def inStartRefresh (x : Seq) : Bool :=
  match x.op with
  | some (.startRefresh, _) => true
  | _ => false

/-- 08 R143: an assertion of ALERT. -/
def alertRaised (s : State) : State :=
  let t := s.withSeq s.seq.counted
  let p := s.withSeq { s.seq.counted with alertPending := true }
  match s.seq.state with
  | .off | .fault => s
  | .starting => if inStartRefresh s.seq then p else t
  | .ready => if s.seq.unconfirmed = [] then t else takeUp t
  | .accessing | .refreshing | .recovering => p

/-- 08 R139: the refresh timer expires and begins its next interval. -/
def refreshExpired (s : State) : State :=
  match s.seq.timer with
  | none => s
  | some _ =>
    let x := { s.seq with timer := some (refreshInterval s.seq.config) }
    if x.debt < Config.maxDebt then s.withSeq { x with debt := x.debt + 1 }
    else raise .refreshOverrun (s.withSeq x)

/-! ### Confirmation (08 R142, 07 R134) -/

/-- 03 R57: FORMAT completes. -/
def formatCompleted (s : State) : State :=
  let s := s.withPool { s.pool with state := .formatted, chainHead := some 0, chainCount := totalBlocks s.seq.config }
  let s := clear .refreshOverrun (clear .poolFault (reinitQueues s))
  raise .formatDone (s.withModeCtl { s.modeCtl with mode := .config, stop := none })

/-- 03 R56, R57: a format write is confirmed. -/
def formatConfirmed (s : State) : State :=
  let s := s.withPool { s.pool with progress := s.pool.progress + 1 }
  if s.pool.progress = totalBlocks s.seq.config then formatCompleted s else s

/-- 03 R44, R50, R56: a POOL request is confirmed; the pool takes nothing from one it no longer works on. -/
def poolConfirmed (u : Purpose) (bs : List Byte) (s : State) : State :=
  match s.pool.state, u with
  | .formatted, .fetch => fetchConfirmed bs s
  | .formatted, .releaseWrite => releaseConfirmed s
  | .formatting, .formatWrite => formatConfirmed s
  | _, _ => s

/-- 04 R69 to R75, 02 R35: a request at a producer's slot is confirmed. -/
def producerConfirmed (p : Producer) (u : Purpose) (bs : List Byte) (s : State) : State :=
  match u with
  | .discardHeader | .discardLink | .discardEndLink => discardDelivered p u bs s
  | _ => writerConfirmed p u s

/-- 07 R134: the client receives the completion of its request. -/
def deliver (c : Client) (u : Purpose) (bs : List Byte) (s : State) : State :=
  match c with
  | .pool => poolConfirmed u bs s
  | .pushw => producerConfirmed .push u bs s
  | .lnkw => producerConfirmed .link u bs s
  | .popr => popConfirmed u bs s
  | .linkr => outConfirmed u bs s

/-- 08 R142, R146: the entries whose alert windows run: none while an ALERT taken first is pending, for it stops the
windows of all of them, and they will be replayed. -/
def windowed (x : Seq) : List Entry := if x.alertPending then [] else x.unconfirmed

/-- 08 R142: the front entry of the unconfirmed list is confirmed. -/
def confirmFront (s : State) : State :=
  match windowed s.seq with
  | [] => s
  | e :: rest =>
    let s := s.withSeq { s.seq with unconfirmed := rest }
    match e.op with
    | .refresh => s
    | .request c r => deliver c r.purpose e.bytes (s.setSlot c .empty)

/-! ### Switching the array (07 R128 to R131, 03 R58) -/

/-- 07 R130, R131: the sequencer out of service. That a pending ALERT and the replay list, which R130 does not name, are
dropped too is the model's choice (log entry 39). -/
def Seq.switchedOff (x : Seq) : Seq :=
  { closeBanks x with state := .off, op := none, slots := Slots.empty, waitList := [], unconfirmed := [], replay := []
                      alertPending := false, debt := 0, timer := none }

/-- 03 R52, R55, R58: the waiting handovers are taken, one after another. -/
def takeHandovers : Nat → State → State
  | 0, s => s
  | n + 1, s => if s.pool.waiting = [] then s else takeHandovers n (takeFront s)

/-- 03 R55, R58: the pool leaves its state with every waiting handover taken and its blocks put nowhere. -/
def poolLeaves (x : PoolState) (s : State) : State :=
  takeHandovers s.pool.waiting.length (s.withPool { s.pool with state := x })

/-- 07 R128: ARRAY_ON. -/
def arraySwitchOn (s : State) : State :=
  if s.modeCtl.mode ≠ .config then setCommand .badMode s
  else if s.seq.state ≠ .off then setCommand .badState s
  else
    setCommand .ok (arrayUnknown
      (s.withSeq { s.seq with state := .starting, op := some (.startCloseAll, s.seq.config.tClose) }))

/-- 07 R130, 03 R58, 02 R39: ARRAY_OFF. -/
def arraySwitchOff (s : State) : State :=
  if s.modeCtl.mode ≠ .config then setCommand .badMode s
  else
    let s := s.withSeq s.seq.switchedOff
    setCommand .ok (clear .refreshOverrun (reinitQueues (poolReset (poolLeaves .unformatted s))))

/-- 03 R55: FORMAT. -/
def formatBegins (s : State) : State :=
  if s.modeCtl.mode ≠ .config then setCommand .badMode s
  else if !inService s.seq.state then setCommand .badState s
  else
    let s := failAllocs (poolLeaves .formatting s)
    let s := s.withPool { s.pool with chainHead := none, chainCount := 0, cache := [], release := [], progress := 0 }
    setCommand .ok (s.withModeCtl { s.modeCtl with mode := .formatting })

/-- 11 R171: a CMD write. -/
def globalCommand (code : Byte) (clearStamp : State → State) (s : State) : State :=
  if code = 0x01 then arraySwitchOn s
  else if code = 0x02 then arraySwitchOff s
  else if code = 0x03 then formatBegins s
  else if code = 0x04 then clearStamp s
  else setCommand .badCode s

end Sys2Proof.Machine
end

