-- ==== Sys2Proof/Machine/Modes.lean ====
section
/-! DEFINITION. The Mode Controller (09): the mode requests, the abort actions, the completion of a stop and the way
out of HALTED; and the reactions of the blocks inside one event (`settle`). -/

namespace Sys2Proof.Machine

/-! ### Requests (09 R150 to R153, R157) -/

/-- 09 R150: a mode request is taken. -/
def modeTaken (m : Mode) (stop : Option Stop) (s : State) : State :=
  s.withModeCtl { mode := m, stop := stop, last := .ok }

/-- 09 R150, R151: RUN. -/
def requestRun (s : State) : State :=
  if s.modeCtl.mode ≠ .config then setModeResult .badMode s
  else if !inService s.seq.state || s.pool.state != .formatted then setModeResult .badState s
  else modeTaken .run none s

/-- 09 R150, R152: STOP. -/
def requestStop (s : State) : State :=
  if s.modeCtl.mode = .run then modeTaken .stopping (some .gentle) s else setModeResult .badMode s

/-- 04 R80: an abort stop at the Push Engine. -/
def pushAbort (s : State) : State :=
  match s.push.state with
  | .awaitTag | .filling => pushCancel .cancelled s
  | .idle | .committing | .cancelling => s

/-- 09 R153: the abort actions of the engines. -/
def abortActions (s : State) : State := linkStop (popAbort (pushAbort s))

/-- 09 R150, R153: ABORT. -/
def requestAbort (s : State) : State :=
  match s.modeCtl.mode, s.modeCtl.stop with
  | .run, _ => abortActions (modeTaken .stopping (some .abort) s)
  | .stopping, some .abort => setModeResult .ok s
  | .stopping, _ => abortActions (modeTaken .stopping (some .abort) s)
  | .config, _ | .formatting, _ | .halted, _ => setModeResult .badMode s

/-- 09 R157: the part leaves the halted mode. -/
def leaveHalted (s : State) : State :=
  let s := arrayUnknown (s.withSeq s.seq.switchedOff)
  let s := reinitQueues (poolReset s)
  modeTaken .config none (clear .refreshOverrun (clear .arrayFault s))

/-- 09 R150, R157: CONFIG. -/
def requestConfig (s : State) : State :=
  if s.modeCtl.mode = .halted then leaveHalted s else setModeResult .badMode s

/-- 09 R150, Table 9-1: a MODE write. -/
def modeRequest (code : Byte) (s : State) : State :=
  if code = 0x01 then requestRun s
  else if code = 0x02 then requestStop s
  else if code = 0x03 then requestAbort s
  else if code = 0x04 then requestConfig s
  else setModeResult .badCode s

/-! ### The completion of a stop (09 R154) -/

/-- 09 R154: nothing is left in flight. -/
def stopComplete (s : State) : Bool :=
  s.push.state == .idle
    && (s.pop.state == .idle && !s.pop.r.unwanted)
    && ((s.link.state == .off || s.link.state == .fault) && s.link.out.state == .idle && s.link.inb.state == .idle
        && !s.link.out.r.unwanted)
    && s.pool.release.isEmpty && s.pool.waiting.isEmpty

/-- 09 R154: the stop completes. -/
def stopMicro (s : State) : Option State :=
  if s.modeCtl.mode = .stopping ∧ stopComplete s then
    some (raise .modeDone (s.withModeCtl { s.modeCtl with mode := .config, stop := none }))
  else none

/-! ### The reactions inside one event (log entries 3, 4 and 22) -/

/-- Every kind of reaction, the first that applies being taken: the Queue Table and the pool first, then the
producers, the consumers and the link. Where none of these has anything more to do, the waiting allocations that the pool can
no longer supply fail (03 R47 looks at the pool as it is after the event). Then come the end of a stop and last the
sequencer's choice. -/
def microRules : List (State → Option State) :=
  [claimMicro, handoverMicro, owedMicro, producerMicro .push, producerMicro .link, inboundMicro, popMicro, outboundMicro,
   discardMicro, poolMicro, linkMicro, allocMicro, stopMicro, choiceMicro]

/-- One reaction, if any block has one. -/
def micro (s : State) : Option State := microRules.findSome? (fun f => f s)

/-- At most n reactions. -/
def settleN : Nat → State → State
  | 0, s => s
  | n + 1, s =>
    match micro s with
    | none => s
    | some t => settleN n t

/-- How many reactions one event may take in this state (log entry 22). -/
def settleFuel (s : State) : Nat :=
  256 + 8 * ((s.queues.toList.map (fun q => q.claims.length)).sum + s.pool.waiting.length)

/-- The blocks react until none has anything more to do at this event. -/
def settle (s : State) : State := settleN (settleFuel s) s

end Sys2Proof.Machine
end

