-- ==== Sys2Proof/Machine/Flags.lean ====
section
/-! DEFINITION. The status registers bit by bit (11 Table 11-2), the causes' codes and classes, the ranking of EVID
and INT (10). -/

namespace Sys2Proof.Machine

/-- A bit of a register byte. -/
def bitAt (i : Nat) (v : Bool) : Byte := if v then BitVec.ofNat 8 (2 ^ i) else 0

/-- A code placed from bit i on. -/
def codeAt (i n : Nat) : Byte := BitVec.ofNat 8 (n * 2 ^ i)

/-! ### Codes of the fields (11 Table 11-2) -/

def PushState.code : PushState → Nat
  | .idle => 0 | .awaitTag => 1 | .filling => 2 | .committing => 3 | .cancelling => 4

def PushResult.code : PushResult → Nat
  | .none => 0 | .opened => 1 | .badMode => 2 | .badState => 3 | .badBinding => 4 | .busy => 5 | .full => 6
  | .committed => 7 | .cancelled => 8 | .tooLong => 9 | .refused => 10 | .dropped => 11 | .arrayError => 12

def PopState.code : PopState → Nat
  | .idle => 0 | .loading => 1 | .ready => 2 | .releasing => 3

def PopResult.code : PopResult → Nat
  | .none => 0 | .selected => 1 | .badMode => 2 | .badState => 3 | .badBinding => 4 | .empty => 5 | .busy => 6
  | .notReady => 7 | .badCode => 8 | .rewound => 9 | .returned => 10 | .released => 11 | .chainFault => 12
  | .arrayError => 13

def LinkState.code : LinkState → Nat
  | .off => 0 | .idle => 1 | .sending => 2 | .granted => 3 | .receiving => 4 | .reclaiming => 5 | .fault => 6

def LinkResult.code : LinkResult → Nat
  | .none => 0 | .started => 1 | .badMode => 2 | .badState => 3 | .busy => 4 | .badBinding => 5 | .badCode => 6
  | .stopped => 7 | .accepted => 8 | .rejected => 9 | .limitHold => 10 | .chainFault => 11 | .timeout => 12
  | .arrayError => 13

def Mode.code : Mode → Nat
  | .config => 0 | .run => 1 | .stopping => 2 | .formatting => 3 | .halted => 4

def stopCode : Option Stop → Nat
  | none => 0 | some .gentle => 1 | some .abort => 2

def ModeResult.code : ModeResult → Nat
  | .none => 0 | .ok => 1 | .badMode => 2 | .badState => 3 | .badCode => 4

def SeqState.code : SeqState → Nat
  | .off => 0 | .starting => 1 | .ready => 2 | .accessing => 3 | .refreshing => 4 | .recovering => 5 | .fault => 6

def PoolState.code : PoolState → Nat
  | .unformatted => 0 | .formatting => 1 | .formatted => 2 | .broken => 3

def CmdResult.code : CmdResult → Nat
  | .none => 0 | .ok => 1 | .badMode => 2 | .badState => 3 | .badCode => 4

/-- 11 Table 11-3. -/
def QRes.code : QRes → Nat
  | .ok => 0 | .pending => 1 | .busy => 2 | .badState => 3 | .badValue => 4 | .badField => 5 | .badQueue => 6
  | .badMode => 7 | .badBinding => 8 | .notEmpty => 9

/-! ### The status bytes (11 Table 11-2) -/

/-- 04 R64: full for a DATA write. -/
def Push.full (x : Push) : Bool := x.remainder.isSome || decide (Config.fifoBytes ≤ x.w.buf.length)

/-- 04 R64: the staging FIFO is empty. -/
def Push.empty (x : Push) : Bool := x.w.buf.isEmpty && x.remainder.isNone

/-- 04 R81: PSTAT, status view. -/
def pstatStatus (x : Push) : Byte :=
  codeAt 0 x.state.code ||| bitAt 3 x.full ||| bitAt 4 x.empty ||| bitAt 5 x.armed.isSome ||| bitAt 6 x.lost

/-- 04 R81: PSTAT, result view. -/
def pstatResult (x : Push) : Byte := codeAt 0 x.last.code

/-- 05 R98: OSTAT. -/
def ostat (x : Pop) : Byte :=
  codeAt 0 x.state.code ||| bitAt 2 (!x.r.buf.isEmpty) ||| bitAt 3 (x.state == .ready && x.r.remaining == 0)
    ||| codeAt 4 x.last.code

/-- 06 R123: LSTAT, status view. -/
def lstatStatus (x : Link) : Byte :=
  codeAt 0 x.state.code ||| bitAt 3 (x.turn == .reverse) ||| bitAt 4 x.lreq ||| bitAt 5 x.lines.lgnt
    ||| bitAt 6 (x.out.state != .idle) ||| bitAt 7 (x.inb.state != .idle)

/-- 06 R123: LSTAT, result view. -/
def lstatResult (x : Link) : Byte := codeAt 0 x.last.code

/-- 09 R150: MODE. -/
def modeByte (x : ModeCtl) : Byte := codeAt 0 x.mode.code ||| codeAt 3 (stopCode x.stop) ||| codeAt 5 x.last.code

/-- 11 R171: GSTAT. -/
def gstat (s : State) : Byte :=
  codeAt 0 s.seq.state.code ||| codeAt 3 s.pool.state.code ||| codeAt 5 s.seq.lastCommand.code

/-- 11 Table 11-2: what EVEN keeps of a written byte: bits 6 and 5 are ignored. -/
def evenKept (v : Byte) : Byte := v &&& 0x9F

/-! ### Causes (10 R158) -/

/-- A cause that may be pending. -/
inductive Cause where
  | global (c : GlobalCause)
  | queue (c : QueueCause) (q : QId)
  | watermark (q : QId)
deriving DecidableEq, Repr

/-- 10 R158: the code of a global cause. -/
def GlobalCause.code : GlobalCause → Nat
  | .arrayFault => 0x01
  | .poolFault => 0x02
  | .refreshOverrun => 0x03
  | .linkTimeout => 0x05
  | .linkRejectLimit => 0x06
  | .linkProtocol => 0x07
  | .pushRefused => 0x08
  | .pushTooLong => 0x09
  | .pushOverrun => 0x0A
  | .pushProtocol => 0x0B
  | .popUnderrun => 0x0D
  | .popPastEnd => 0x0E
  | .formatDone => 0x11
  | .modeDone => 0x12
  | .arrayAlert => 0x13

/-- 10 R158: the code of a cause. -/
def Cause.code : Cause → Nat
  | .global c => c.code
  | .queue .queueFault _ => 0x04
  | .queue .queueDiscard _ => 0x0C
  | .watermark _ => 0x0F
  | .queue .nonempty _ => 0x10

/-- 10 R158: the class of a code, A = 0 to E = 4. -/
def classOf (code : Nat) : Nat :=
  if code ≤ 0x04 then 0 else if code ≤ 0x07 then 1 else if code ≤ 0x0C then 2 else if code ≤ 0x10 then 3 else 4

/-- A cause is pending (10 R158, R163). -/
def Cause.isPending (s : State) : Cause → Bool
  | .global c => pendingGlobal s.events c
  | .queue .queueFault q => s.events.queueFault[q.val]'q.isLt
  | .queue .queueDiscard q => s.events.queueDiscard[q.val]'q.isLt
  | .queue .nonempty q => s.events.nonempty[q.val]'q.isLt
  | .watermark q => (s.queue q).atWatermark

/-- 10 R159: the global causes of a stretch of the ranking. -/
def rankGlobal (l : List GlobalCause) : List Cause := l.map Cause.global

/-- 10 R159: a per-queue cause, the lowest queue ranked first. -/
def rankQueue (c : QueueCause) : List Cause := allQueues.map (Cause.queue c)

/-- 10 R159: every cause, highest ranked first: by code, and by queue within a code. -/
def ranking : List Cause :=
  rankGlobal [.arrayFault, .poolFault, .refreshOverrun]
    ++ rankQueue .queueFault
    ++ rankGlobal [.linkTimeout, .linkRejectLimit, .linkProtocol, .pushRefused, .pushTooLong, .pushOverrun,
        .pushProtocol]
    ++ rankQueue .queueDiscard
    ++ rankGlobal [.popUnderrun, .popPastEnd]
    ++ allQueues.map Cause.watermark
    ++ rankQueue .nonempty
    ++ rankGlobal [.formatDone, .modeDone, .arrayAlert]

/-- 10 R159: the highest-ranked pending cause. -/
def highest (s : State) : Option Cause := ranking.find? (fun c => c.isPending s)

/-- 10 R159: the queue of the reported pair. -/
def reportedQueue (s : State) : Cause → Byte
  | .queue _ q => BitVec.ofNat 8 q.val
  | .watermark q => BitVec.ofNat 8 q.val
  | .global .linkRejectLimit => BitVec.ofNat 8 s.events.rejectQueue.val
  | .global _ => 0xFF

/-- 10 R159: the mark that a read of EVID clears: that of a reported cause of class E. -/
def clearReported (c : Cause) (s : State) : State :=
  match c with
  | .global g => if classOf g.code = 4 then clear g s else s
  | .queue _ _ | .watermark _ => s

/-- 10 R164: the enable of a class. -/
def classEnabled (e : Events) (c : Nat) : Bool := e.even.getLsbD c

/-- 10 R164: the master enable. -/
def masterEnabled (e : Events) : Bool := e.even.getLsbD 7

/-- 10 R165: INT. -/
def State.intLine (s : State) : Bool :=
  masterEnabled s.events && ranking.any (fun c => c.isPending s && classEnabled s.events (classOf c.code))

end Sys2Proof.Machine
end

