-- ==== Sys2Proof/WellFormed.lean ====
section
/-! DEFINITION. Which terms spell a command of their row: operand ranges beyond what the types say.
A term that fails the check still has a meaning (log entry 7): it is the register write, the register
access or the link byte that its operands name. -/

namespace Sys2Proof

/-- 04 Table 4-1: a PCTL code that names no control byte. -/
def pctlUndefined (code : Byte) : Bool :=
  (0x42 ≤ code.toNat && code.toNat ≤ 0x5F) || 0x78 ≤ code.toNat

/-- 05 Table 5-1: an OCTL code that names no command. -/
def octlUndefined (code : Byte) : Bool :=
  !(code == 0x01 || code == 0x02 || code == 0x03 || (0x20 ≤ code.toNat && code.toNat ≤ 0x37))

/-- 11 Table 11-3: a QCMD code that names no command. -/
def qcmdUndefined (code : Byte) : Bool :=
  !(1 ≤ code.toNat && code.toNat ≤ 8)

/-- 09 Table 9-1: a MODE code that names no request. -/
def modeUndefined (code : Byte) : Bool :=
  !(1 ≤ code.toNat && code.toNat ≤ 4)

/-- 06 Table 6-2: an LCMD register code that names no command. -/
def lcmdUndefined (code : Byte) : Bool :=
  !(code == 0x01 || code == 0x02)

/-- 11 R171: a CMD code that names no command. -/
def cmdUndefined (code : Byte) : Bool :=
  !(1 ≤ code.toNat && code.toNat ≤ 4)

/-- 11 Table 11-1: a write to this offset is a row of its own (DATA, PCTL, OCTL, QCMD, MODE, EVEN, EVACK,
LCMD, CMD). -/
def writeHasOwnRow (offset : Fin 32) : Bool :=
  [0x00, 0x01, 0x02, 0x12, 0x13, 0x16, 0x17, 0x18, 0x19].contains offset.val

/-- 11 Table 11-1: a read of this offset is a row of its own (DATA, PSTAT, EVID, EVQ, LSTAT). -/
def readHasOwnRow (offset : Fin 32) : Bool :=
  [0x00, 0x01, 0x14, 0x15, 0x18].contains offset.val

/-- The term spells a command of its row. -/
def Instr.wf : Instr → Bool
  | .pctlUndefinedCode c => pctlUndefined c
  | .octlUndefinedCode c => octlUndefined c
  | .qcmdUndefinedCode c => qcmdUndefined c
  | .modeUndefinedCode c => modeUndefined c
  | .lcmdUndefinedCode c => lcmdUndefined c
  | .cmdUndefinedCode c => cmdUndefined c
  | .registerWriteOther o _ => !writeHasOwnRow o
  | .registerReadOther o => !readHasOwnRow o
  | .accessCompletion (.otherwise bs) => bs.length ≤ 32
  | .reissueCompletion (.otherwise bs) => bs.length ≤ 32
  | .accessCompletion .asAsked | .reissueCompletion .asAsked => true
  | .reset | .dataWrite _ | .dataRead | .pstatRead | .lstatRead | .pctlOpen _ | .pctlRepeat _ | .pctlEnd
  | .pctlCancel | .octlSelect _ | .octlRelease | .octlReturn | .octlRewind | .qcmdFetch | .qcmdStore
  | .qcmdEnable | .qcmdDisable | .qcmdHold | .qcmdResume | .qcmdFlush | .qcmdClearfault | .modeRun
  | .modeStop | .modeAbort | .modeConfig | .evidRead | .evqRead | .evenWrite _ | .evack _ | .lcmdStart
  | .lcmdStop | .arrayOn | .arrayOff | .format | .stampClear | .alert | .lreqRise | .lreqFall
  | .peerAccept | .peerReject | .lackRise | .lackFall | .linkBegin | .inboundDataByte _ | .inboundEnd
  | .inboundAbort | .strayByte _ _ | .lstbFall | .linkTimeout | .idleGrantExpiry | .stampTick | .refreshTimerExpiry
  | .confirmation | .refreshCompletion | .startCloseAllDone | .startRefreshDone | .recoveryCloseAllDone
    => true

end Sys2Proof
end

