-- ==== Sys2Proof/Machine/Operands.lean ====
section
/-! DEFINITION. The operands of the indexed window: page fields as FETCH reads them and STORE writes them (11 R169,
R170, Tables 11-4 to 11-6; 02 R16, 06 R106, 07 R125), and the readable registers (11 Table 11-1). -/

namespace Sys2Proof.Machine

/-! ### Values -/

/-- 11 section 11.3: the 24-bit value in QV0 to QV2. -/
def stagedValue (w : Window) : Nat := natOfBytes [w.qv0, w.qv1, w.qv2]

/-- 11 R169: a value is placed in QV0 to QV2. -/
def stageValue (n : Nat) (w : Window) : Window := { w with qv0 := byteOf n 2, qv1 := byteOf n 1, qv2 := byteOf n 0 }

def flagBit (b : Bool) : Nat := if b then 1 else 0

/-! ### FETCH -/

def QState.code : QState → Nat
  | .off => 0 | .active => 1 | .held => 2 | .faulted => 3

def pinCode : Option Consumer → Nat
  | none => 0 | some .pop => 1 | some .link => 2

def openCode : Option Producer → Nat
  | none => 0 | some .push => 1 | some .link => 2

def faultCode : Option FaultReason → Nat
  | none => 0 | some .chain => 1 | some .array => 2

/-- 11 Table 11-4: a block field, 0xFFFFFF when absent. -/
def blockField (p : Option Pos) : Nat := (p.map (·.block)).getD Config.noneBlock

/-- 11 Table 11-4: an offset field, 0 when absent. -/
def offsetField (p : Option Pos) : Nat := (p.map (·.offset)).getD 0

/-- 11 Table 11-4: the field of a queue page. -/
def fetchQueue (x : Queue) (field : Nat) : Option Nat :=
  match field with
  | 0 => some x.state.code
  | 1 => some (flagBit (x.producer == .link) + 2 * flagBit (x.consumer == .link))
  | 2 => some (flagBit x.stamp + 2 * flagBit x.number + 4 * flagBit (x.policy == .discardOldest))
  | 3 => some x.blockLimit
  | 4 => some x.watermark
  | 5 => some x.records
  | 6 => some (x.payload % 65536)
  | 7 => some (x.payload / 65536)
  | 8 => some x.blocks
  | 9 => some (blockField x.head)
  | 10 => some (offsetField x.head)
  | 11 => some (blockField x.tail)
  | 12 => some (offsetField x.tail)
  | 13 => some x.nextSeq.toNat
  | 14 => some x.discards
  | 15 => some (pinCode x.pin + 4 * openCode x.openRec + 16 * faultCode x.fault)
  | _ => none

/-- 11 Table 11-5: 0xFF for no queue. -/
def queueField (q : Option QId) : Nat := (q.map (·.val)).getD 0xFF

/-- 11 Table 11-5: the field of page 30. -/
def fetchLink (l : Link) (field : Nat) : Option Nat :=
  match field with
  | 0 => some (queueField l.drainQ)
  | 1 => some (queueField l.fillQ)
  | 2 => some l.retryLimit
  | 3 => some l.quota
  | 4 => some l.timeout
  | 5 => some l.state.code
  | 6 => some l.sent
  | 7 => some l.received
  | 8 => some l.rejects
  | _ => none

/-- 11 Table 11-6: the field of page 31. -/
def fetchArray (s : State) (field : Nat) : Option Nat :=
  let c := s.seq.config
  match field with
  | 0 => some c.banks
  | 1 => some c.rows
  | 2 => some c.interval
  | 3 => some c.urgency
  | 4 => some c.window
  | 5 => some (c.tOpen * 256 + c.tClose * 16 + c.tBurst)
  | 6 => some (totalBlocks c)
  | 7 => some (s.pool.chainCount + releaseBlocks s.pool.release)
  | 8 => some s.pool.cache.length
  | 9 => some s.pool.state.code
  | 10 => some s.pool.progress
  | 11 => some s.seq.debt
  | 12 => some s.seq.alerts
  | 13 => some (s.stamp.counter.toNat % 65536)
  | 14 => some (s.stamp.counter.toNat / 65536)
  | 15 => some s.stamp.prescale
  | _ => none

/-- 11 R168: the pages. -/
inductive Page where
  | queue (q : QId)
  | link
  | array
deriving DecidableEq, Repr

/-- 11 R168: the page that QSEL names. -/
def pageOf (qsel : Byte) : Option Page :=
  if h : qsel.toNat < 24 then some (.queue ⟨qsel.toNat, h⟩)
  else if qsel.toNat = 30 then some .link
  else if qsel.toNat = 31 then some .array
  else none

/-- 11 R169: the value of a field. -/
def fieldValue (s : State) (p : Page) (field : Nat) : Option Nat :=
  match p with
  | .queue q => fetchQueue (s.queue q) field
  | .link => fetchLink s.link field
  | .array => fetchArray s field

/-- 11 R169: FETCH of a page. -/
def fetchPage (p : Page) (s : State) : State :=
  match fieldValue s p s.window.qfld.toNat with
  | none => setQres .badField s
  | some n => setQres .ok (s.withWindow (stageValue n s.window))

/-! ### STORE -/

/-- A STORE's answer with the state it leaves. -/
abbrev Stored := QRes × State

/-- 02 R16: a store that wants an OFF queue without blocks, and a value in range. -/
def storeConfig (x : Queue) (q : QId) (inRange : Bool) (y : Queue) (s : State) : Stored :=
  if x.state ≠ .off ∨ x.blocks ≠ 0 then (.badState, s)
  else if inRange then (.ok, s.setQueue q y)
  else (.badValue, s)

def bindingOf (link : Bool) : Binding := if link then .link else .window

/-- 02 R16: STORE to a field of a queue page; none where the page has no such field. -/
def storeQueue (q : QId) (field v : Nat) (s : State) : Option Stored :=
  let x := s.queue q
  match field with
  | 0 | 5 | 6 | 7 | 8 | 9 | 10 | 11 | 12 | 15 => some (.badField, s)
  | 1 =>
    some (storeConfig x q (decide (v < 4))
      { x with producer := bindingOf (v.testBit 0), consumer := bindingOf (v.testBit 1) } s)
  | 2 =>
    some (storeConfig x q (decide (v < 8))
      { x with stamp := v.testBit 0, number := v.testBit 1
               policy := if v.testBit 2 then .discardOldest else .refuse } s)
  | 3 => some (storeConfig x q (decide (1 ≤ v ∧ v ≤ Config.maxBlockLimit)) { x with blockLimit := v } s)
  | 4 => some (if v < 65536 then (.ok, s.setQueue q { x with watermark := v }) else (.badValue, s))
  | 13 => some (storeConfig x q (decide (v < 65536)) { x with nextSeq := BitVec.ofNat 16 v } s)
  | 14 => some (.ok, s.setQueue q { x with discards := 0 })
  | _ => none

/-- 06 R106 case 3: the link parameters may be stored. -/
def linkStorable (l : Link) : Bool :=
  l.state == .off && l.out.state == .idle && l.inb.state == .idle && !l.out.r.unwanted

/-- 06 R106 case 4: the queue that a value names, none for 0xFF; no answer for a value out of range. -/
def namedQueue (v : Nat) : Option (Option QId) :=
  if h : v < 24 then some (some ⟨v, h⟩) else if v = 0xFF then some none else none

/-- 06 R106: a store of a link parameter. -/
def storeParameter (y : Option Link) (s : State) : Stored :=
  if !linkStorable s.link then (.badState, s)
  else match y with
    | some l => (.ok, s.withLink l)
    | none => (.badValue, s)

/-- 06 R106: STORE to a field of page 30. -/
def storeLink (field v : Nat) (s : State) : Option Stored :=
  let l := s.link
  match field with
  | 0 => some (storeParameter ((namedQueue v).map (fun q => retryCleared { l with drainQ := q })) s)
  | 1 => some (storeParameter ((namedQueue v).map (fun q => { l with fillQ := q })) s)
  | 2 => some (storeParameter (if v ≤ 7 then some { l with retryLimit := v } else none) s)
  | 3 => some (storeParameter (if 1 ≤ v ∧ v ≤ 15 then some { l with quota := v } else none) s)
  | 4 => some (storeParameter (if 1 ≤ v ∧ v ≤ 255 then some { l with timeout := v } else none) s)
  | 5 => some (.badField, s)
  | 6 => some (.ok, s.withLink { l with sent := 0 })
  | 7 => some (.ok, s.withLink { l with received := 0 })
  | 8 => some (.ok, s.withLink { l with rejects := 0 })
  | _ => none

/-- 07 R125: a store of an array parameter. -/
def storeShape (y : Option Seq) (s : State) : Stored :=
  if s.modeCtl.mode ≠ .config then (.badMode, s)
  else if s.seq.state ≠ .off then (.badState, s)
  else match y with
    | some x => (.ok, s.withSeq x)
    | none => (.badValue, s)

/-- 07 R125: a changed parameter, where the value is in range. -/
def changedConfig (x : Seq) (inRange : Bool) (c : ArrayConfig) : Option Seq :=
  if inRange then some { x with config := c } else none

/-- 07 R124: TIMING's three values. -/
def timingInRange (v : Nat) : Bool :=
  decide (v < 4096 ∧ 1 ≤ v / 256 ∧ 1 ≤ v / 16 % 16 ∧ 1 ≤ v % 16)

/-- 02 R37, 07 R125 case 2: STORE to STAMP_PRESCALE. -/
def storePrescale (v : Nat) (s : State) : Stored :=
  if 1 ≤ v ∧ v ≤ 65536 then (.ok, s.withStamp { s.stamp with prescale := v, left := v }) else (.badValue, s)

/-- 07 R125: STORE to a field of page 31. -/
def storeArray (field v : Nat) (s : State) : Option Stored :=
  let x := s.seq
  let c := x.config
  match field with
  | 0 => some (storeShape ((changedConfig x (v == 4 || v == 8) { c with banks := v }).map closeBanks) s)
  | 1 => some (storeShape (changedConfig x (v == 4096 || v == 8192 || v == 16384) { c with rows := v }) s)
  | 2 => some (storeShape (changedConfig x (decide (1 ≤ v ∧ v ≤ 4095)) { c with interval := v }) s)
  | 3 => some (storeShape (changedConfig x (decide (1 ≤ v ∧ v ≤ 8)) { c with urgency := v }) s)
  | 4 => some (storeShape (changedConfig x (decide (1 ≤ v ∧ v ≤ 63)) { c with window := v }) s)
  | 5 =>
    some (storeShape (changedConfig x (timingInRange v)
      { c with tOpen := v / 256, tClose := v / 16 % 16, tBurst := v % 16 }) s)
  | 6 | 7 | 8 | 9 | 10 | 11 | 12 | 13 | 14 => some (.badField, s)
  | 15 => some (storePrescale v s)
  | _ => none

/-- 11 R170: the answer of a page's owner. -/
def ownerStore (p : Page) (field v : Nat) (s : State) : Option Stored :=
  match p with
  | .queue q => storeQueue q field v s
  | .link => storeLink field v s
  | .array => storeArray field v s

/-- 11 R170: STORE to a page. -/
def storePage (p : Page) (s : State) : State :=
  match ownerStore p s.window.qfld.toNat (stagedValue s.window) s with
  | none => setQres .badField s
  | some (r, t) => setQres r t

/-! ### Readable registers (11 Table 11-1) -/

/-- 11 Table 11-1: the byte of a register whose read changes nothing; `none` for DATA, PSTAT, EVID, EVQ and LSTAT. -/
def registerByte (s : State) (offset : Nat) : Option Byte :=
  let h := s.pop.r.hdr
  match offset with
  | 0x02 => some (ostat s.pop)
  | 0x03 => some (byteOf h.length 1)
  | 0x04 => some (byteOf h.length 0)
  | 0x05 => some h.tag
  | 0x06 => some h.flags
  | 0x07 => some (byteOf h.stamp.toNat 3)
  | 0x08 => some (byteOf h.stamp.toNat 2)
  | 0x09 => some (byteOf h.stamp.toNat 1)
  | 0x0A => some (byteOf h.stamp.toNat 0)
  | 0x0B => some (byteOf h.seq.toNat 1)
  | 0x0C => some (byteOf h.seq.toNat 0)
  | 0x0D => some s.window.qsel
  | 0x0E => some s.window.qfld
  | 0x0F => some s.window.qv0
  | 0x10 => some s.window.qv1
  | 0x11 => some s.window.qv2
  | 0x12 => some (codeAt 0 s.window.qres.code)
  | 0x13 => some (modeByte s.modeCtl)
  | 0x16 => some s.events.even
  | 0x17 => some 0
  | 0x19 => some (gstat s)
  | 0x1A => some (byteOf s.push.accepted 1)
  | 0x1B => some (byteOf s.push.accepted 0)
  | 0x1C => some (byteOf s.pop.r.remaining 1)
  | 0x1D => some (byteOf s.pop.r.remaining 0)
  | 0x1E => some Config.ident
  | 0x1F => some s.window.scratch
  | _ => none

/-- 11 Table 11-1: a write to a register that is plain storage; a read-only register is left as it is. -/
def storeRegister (offset : Nat) (v : Byte) (w : Window) : Window :=
  match offset with
  | 0x0D => { w with qsel := v }
  | 0x0E => { w with qfld := v }
  | 0x0F => { w with qv0 := v }
  | 0x10 => { w with qv1 := v }
  | 0x11 => { w with qv2 := v }
  | 0x1F => { w with scratch := v }
  | _ => w

end Sys2Proof.Machine
end

