-- ==== Sys2Proof/Machine/ArrayCmds.lean ====
section
/-! DEFINITION. The CMD commands (11 R171), the stamp (02 R37), ALERT, and the sequencer's expiries and completions
(07, 08). A completion or expiry that cannot fall has no effect (log entry 5). -/

namespace Sys2Proof.Machine

/-- 02 R37: the stamp counter is set to 0 and the prescaler's count restarts. -/
def stampCleared (s : State) : State :=
  setCommand .ok (s.withStamp { s.stamp with counter := 0, left := s.stamp.prescale })

/-- 02 R37: a stamp tick. -/
def stampTicked (s : State) : State :=
  s.withStamp { s.stamp with counter := s.stamp.counter + 1, left := s.stamp.prescale }

/-- 01 R1: an access to a block the array does not have stops the model (log entry 18). -/
def inArray (x : Seq) (r : Request) : Bool := decide (r.block < totalBlocks x.config)

/-- ARRAY_ON (07 R128). -/
def execArrayOn (s : State) : Outcome := .next (arraySwitchOn (windowAccess s))

/-- ARRAY_OFF (07 R130). -/
def execArrayOff (s : State) : Outcome := .next (arraySwitchOff (windowAccess s))

/-- FORMAT (03 R55). -/
def execFormat (s : State) : Outcome := .next (settle (formatBegins (windowAccess s)))

/-- STAMP_CLEAR (02 R37, 11 R171). -/
def execStampClear (s : State) : Outcome := .next (stampCleared (windowAccess s))

/-- CMD_UNDEFINED_CODE (11 R171); a code that R171 lists acts as its command (log entry 7). -/
def execCmdUndefinedCode (code : Byte) (s : State) : Outcome :=
  if cmdUndefined code then .next (setCommand .badCode (windowAccess s))
  else .next (settle (globalCommand code stampCleared (windowAccess s)))

/-- STAMP_TICK (02 R37). -/
def execStampTick (s : State) : Outcome := .next (stampTicked s)

/-- ALERT (08 R143). -/
def execAlert (s : State) : Outcome := .next (settle (alertRaised s))

/-- REFRESH_TIMER_EXPIRY (08 R139). -/
def execRefreshTimerExpiry (s : State) : Outcome := .next (settle (refreshExpired s))

/-- CONFIRMATION (08 R142). -/
def execConfirmation (s : State) : Outcome := .next (settle (confirmFront s))

/-- ACCESS_COMPLETION (07 R138). -/
def execAccessCompletion (reply : ArrayReply) (s : State) : Outcome :=
  match accessInProgress s.seq with
  | none => .next s
  | some (c, r) => if inArray s.seq r then .next (settle (accessDone c r reply s)) else .fault .noSuchBlock

/-- REFRESH_COMPLETION (08 R140). -/
def execRefreshCompletion (s : State) : Outcome := .next (settle (refreshDone s))

/-- START_CLOSE_ALL_DONE (07 R129). -/
def execStartCloseAllDone (s : State) : Outcome := .next (startClosed s)

/-- START_REFRESH_DONE (07 R129). -/
def execStartRefreshDone (s : State) : Outcome := .next (settle (startRefreshed s))

/-- RECOVERY_CLOSE_ALL_DONE (08 R145, R146). -/
def execRecoveryCloseAllDone (s : State) : Outcome := .next (settle (recoveryClosed s))

/-- 08 R145: the re-issued entry moves bytes of the array that exist. -/
def entryInArray (x : Seq) (e : Entry) : Bool :=
  match e.op with
  | .refresh => true
  | .request _ r => inArray x r

/-- REISSUE_COMPLETION (08 R145, R146). -/
def execReissueCompletion (reply : ArrayReply) (s : State) : Outcome :=
  match reissueInProgress s.seq with
  | none => .next s
  | some e => if entryInArray s.seq e then .next (settle (reissueDone e reply s)) else .fault .noSuchBlock

end Sys2Proof.Machine
end

