-- ==== Sys2Proof/Machine/EventCmds.lean ====
section
/-! DEFINITION. The Event Unit's commands (10): EVID_READ, EVQ_READ, EVEN_WRITE and EVACK. -/

namespace Sys2Proof.Machine

/-- 10 R159: the reported pair. -/
def report (code queue : Byte) (s : State) : State :=
  s.withEvents { s.events with reportCode := code, reportQueue := queue }

/-- 10 R159: a read of EVID. -/
def readEvid (s : State) : State :=
  match highest s with
  | none => drive 0 (report 0 0xFF s)
  | some c =>
    let code := BitVec.ofNat 8 c.code
    drive code (clearReported c (report code (reportedQueue s c) s))

/-- 10 R160: a read of EVQ. -/
def readEvq (s : State) : State :=
  drive s.events.reportQueue (s.withEvents { s.events with ackQueue := s.events.reportQueue })

/-- 10 R164: a write to EVEN. -/
def writeEven (v : Byte) (s : State) : State := s.withEvents { s.events with even := evenKept v }

/-- 10 R161: the global cause that an EVACK code clears. -/
def ackedCause (code : Nat) : Option GlobalCause :=
  match code with
  | 0x05 => some .linkTimeout
  | 0x06 => some .linkRejectLimit
  | 0x07 => some .linkProtocol
  | 0x08 => some .pushRefused
  | 0x09 => some .pushTooLong
  | 0x0A => some .pushOverrun
  | 0x0B => some .pushProtocol
  | 0x0D => some .popUnderrun
  | 0x0E => some .popPastEnd
  | _ => none

/-- 10 R161: the per-queue cause whose mark of the acknowledge queue an EVACK code clears. -/
def ackedQueueCause (code : Nat) : Option QueueCause :=
  match code with
  | 0x0C => some .queueDiscard
  | 0x10 => some .nonempty
  | _ => none

/-- 10 R161: the acknowledge queue, none for 0xFF. -/
def ackedQueue (e : Events) : Option QId :=
  if h : e.ackQueue.toNat < 24 then some ⟨e.ackQueue.toNat, h⟩ else none

/-- 10 R161: a write to EVACK. -/
def acknowledge (code : Byte) (s : State) : State :=
  match ackedCause code.toNat, ackedQueueCause code.toNat, ackedQueue s.events with
  | some c, _, _ => clear c s
  | none, some c, some q => clearQueue c q s
  | none, _, _ => s

/-- EVID_READ (10 R159). -/
def execEvidRead (s : State) : Outcome := .next (readEvid (windowAccess s))

/-- EVQ_READ (10 R160). -/
def execEvqRead (s : State) : Outcome := .next (readEvq (windowAccess s))

/-- EVEN_WRITE (10 R164). -/
def execEvenWrite (v : Byte) (s : State) : Outcome := .next (writeEven v (windowAccess s))

/-- EVACK (10 R161). -/
def execEvack (code : Byte) (s : State) : Outcome := .next (acknowledge code (windowAccess s))

end Sys2Proof.Machine
end

