-- ==== Sys2Proof/Machine/LinkCmds.lean ====
section
/-! DEFINITION. The Record Link's commands (06): the LCMD register's, LSTAT's reads, the edges of the peer's lines
and the expiries of the link timer. An edge that cannot fall has no effect (log entry 5). -/

namespace Sys2Proof.Machine

/-- START (06 R107). -/
def execLcmdStart (s : State) : Outcome := .next (settle (linkStart (windowAccess s)))

/-- LINK_STOP (06 R108). -/
def execLcmdStop (s : State) : Outcome := .next (settle (linkStop (windowAccess s)))

/-- LCMD_UNDEFINED_CODE (06 R107); a code that Table 6-2 lists acts as its command (log entry 7). -/
def execLcmdUndefinedCode (code : Byte) (s : State) : Outcome :=
  if lcmdUndefined code then .next (setLinkResult .badCode (windowAccess s))
  else .next (settle (linkControl code (windowAccess s)))

/-- 11 R167: the byte a read of LSTAT returns. -/
def lstatByte (s : State) : Byte :=
  match s.window.linkView with
  | .status => lstatStatus s.link
  | .result => lstatResult s.link

/-- 11 R167: a read of LSTAT. -/
def readLstat (s : State) : State :=
  s.withWindow { s.window with
    linkView := (match s.window.linkView with | .status => .result | .result => .status)
    pushView := .status, dataOut := some (lstatByte s) }

/-- LSTAT_READ (11 R167, 06 R123). -/
def execLstatRead (s : State) : Outcome := .next (readLstat s)

/-- LREQ_RISE (06 R109). -/
def execLreqRise (s : State) : Outcome := .next (settle (lreqRise s))

/-- LREQ_FALL (06 R110, R111). -/
def execLreqFall (s : State) : Outcome := .next (settle (lreqFall s))

/-- PEER_ACCEPT (06 R114). -/
def execPeerAccept (s : State) : Outcome := .next (settle (peerAccept s))

/-- PEER_REJECT (06 R115). -/
def execPeerReject (s : State) : Outcome := .next (settle (peerReject s))

/-- LACK_RISE (06 R100). -/
def execLackRise (s : State) : Outcome := .next (settle (lackRise s))

/-- LACK_FALL (06 R100). -/
def execLackFall (s : State) : Outcome := .next (settle (lackFall s))

/-- BEGIN (06 R110, R111, R116). -/
def execLinkBegin (s : State) : Outcome := .next (settle (lstbRise true beginCode s))

/-- INBOUND_DATA_BYTE (06 R117). -/
def execInboundDataByte (b : Byte) (s : State) : Outcome := .next (settle (lstbRise false b s))

/-- INBOUND_END (06 R118). -/
def execInboundEnd (s : State) : Outcome := .next (settle (lstbRise true endCode s))

/-- INBOUND_ABORT (06 R119). -/
def execInboundAbort (s : State) : Outcome := .next (settle (lstbRise true abortCode s))

/-- STRAY_BYTE (06 R104). -/
def execStrayByte (control : Bool) (b : Byte) (s : State) : Outcome := .next (settle (lstbRise control b s))

/-- LSTB_FALL (06 R101). -/
def execLstbFall (s : State) : Outcome := .next (settle (lstbFall s))

/-- LINK_TIMEOUT (06 R120). -/
def execLinkTimeout (s : State) : Outcome := .next (settle (timedOut s))

/-- IDLE_GRANT_EXPIRY (06 R110). -/
def execIdleGrantExpiry (s : State) : Outcome := .next (settle (idleGrantOver s))

end Sys2Proof.Machine
end

