-- ==== Sys2Proof/Machine/ModeCmds.lean ====
section
/-! DEFINITION. The MODE requests (09): MODE_RUN, MODE_STOP, MODE_ABORT, MODE_CONFIG and the undefined codes. -/

namespace Sys2Proof.Machine

/-- MODE_RUN (09 R151). -/
def execModeRun (s : State) : Outcome := .next (requestRun (windowAccess s))

/-- MODE_STOP (09 R152). -/
def execModeStop (s : State) : Outcome := .next (settle (requestStop (windowAccess s)))

/-- MODE_ABORT (09 R153). -/
def execModeAbort (s : State) : Outcome := .next (settle (requestAbort (windowAccess s)))

/-- MODE_CONFIG (09 R157). -/
def execModeConfig (s : State) : Outcome := .next (requestConfig (windowAccess s))

/-- MODE_UNDEFINED_CODE (09 R150); a code that Table 9-1 lists acts as its request (log entry 7). -/
def execModeUndefinedCode (code : Byte) (s : State) : Outcome :=
  if modeUndefined code then .next (setModeResult .badCode (windowAccess s))
  else .next (settle (modeRequest code (windowAccess s)))

end Sys2Proof.Machine
end

