-- ==== Sys2Proof/Machine/PopCmds.lean ====
section
/-! DEFINITION. The pop commands (05): DATA_READ, SELECT, RELEASE, RETURN, REWIND and the undefined OCTL codes. -/

namespace Sys2Proof.Machine

/-- 05 R89, 11 R166: a read of DATA: the byte is driven, and the context changes. -/
def readData (s : State) : State := popRead (drive (popByte s.pop) (windowAccess s))

/-- DATA_READ (05 R89). -/
def execDataRead (s : State) : Outcome := .next (settle (readData s))

/-- SELECT (05 R84). -/
def execOctlSelect (q : QId) (s : State) : Outcome := .next (settle (popSelect q (windowAccess s)))

/-- RELEASE (05 R93). -/
def execOctlRelease (s : State) : Outcome := .next (settle (popRelease (windowAccess s)))

/-- RETURN (05 R91, R92). -/
def execOctlReturn (s : State) : Outcome := .next (settle (popReturn (windowAccess s)))

/-- REWIND (05 R90). -/
def execOctlRewind (s : State) : Outcome := .next (settle (popRewind (windowAccess s)))

/-- OCTL_UNDEFINED_CODE (05 R83); a code that Table 5-1 lists acts as its command (log entry 7). -/
def execOctlUndefinedCode (code : Byte) (s : State) : Outcome :=
  if octlUndefined code then .next (setPopResult .badCode (windowAccess s))
  else .next (settle (popControl code (windowAccess s)))

end Sys2Proof.Machine
end

