-- ==== Sys2Proof/Machine/PushCmds.lean ====
section
/-! DEFINITION. The push commands (04): DATA_WRITE, OPEN, REPEAT, END, CANCEL and the undefined PCTL codes; and the
reads of PSTAT. -/

namespace Sys2Proof.Machine

/-- 04 R60: a refused control byte or DATA write. -/
def pushProtocol (s : State) : State := raise .pushProtocol s

/-- 04 R61: the context at a taken OPEN. -/
def Push.opening (x : Push) (q : QId) : Push :=
  { x with state := .awaitTag, accepted := 0, armed := none, remainder := none, lost := false, repeated := false
           w := { Writer.reset with queue := some q, openAns := some .awaited } }

/-- 04 R60, R61: OPEN q. -/
def pushOpen (q : QId) (s : State) : State :=
  match s.push.state with
  | .idle =>
    if s.modeCtl.mode = .run then makeClaim q (.openRec .push) (s.withPush (s.push.opening q))
    else raise .pushRefused (s.withPush { s.push with last := .badMode })
  | .awaitTag | .filling | .committing | .cancelling => pushProtocol s

/-- 04 R60, R66: REPEAT n. -/
def pushRepeat (n : Nat) (s : State) : State :=
  match s.push.state, s.push.armed with
  | .filling, none => s.withPush { s.push with armed := some (n + 2), repeated := true }
  | _, _ => pushProtocol s

/-- 04 R60, R74: END. -/
def pushEnd (s : State) : State :=
  match s.push.state, s.push.armed with
  | .filling, none => s.withPush { s.push with state := .committing }
  | _, _ => pushProtocol s

/-- 04 R60, R76: CANCEL. -/
def pushCancelled (s : State) : State :=
  match s.push.state with
  | .awaitTag | .filling => pushCancel .cancelled s
  | .idle | .committing | .cancelling => pushProtocol s

/-- 04 R65, R67: an overrun. The armed repeat is used. -/
def pushOverrun (s : State) : State :=
  raise .pushOverrun (s.withPush { s.push with lost := true, armed := none })

/-- 04 R68: the automatic cancel for TOOLONG. -/
def pushTooLong (s : State) : State := raise .pushTooLong (pushCancel .tooLong s)

/-- 04 R67: the context with c copies of a byte accepted. -/
def Push.accept (x : Push) (b : Byte) (c : Nat) : Push :=
  let k := min c (Config.fifoBytes - x.w.buf.length)
  { x with accepted := x.accepted + c, armed := none, w := { x.w with buf := x.w.buf ++ List.replicate k b }
           remainder := if c - k = 0 then none else some (b, c - k) }

/-- 04 R65, R67: how many copies the next payload DATA write brings. -/
def Push.copies (x : Push) : Nat := x.armed.getD 1

/-- 04 R65, R67: a payload DATA write. -/
def pushPayload (b : Byte) (s : State) : State :=
  if s.push.full then pushOverrun s
  else if Config.maxPayload < s.push.accepted + s.push.copies then pushTooLong s
  else s.withPush (s.push.accept b s.push.copies)

/-- 04 R63: a DATA write. -/
def pushData (b : Byte) (s : State) : State :=
  match s.push.state with
  | .awaitTag => s.withPush { s.push with state := .filling, w := { s.push.w with tag := some b } }
  | .filling => pushPayload b s
  | .idle | .committing | .cancelling => pushProtocol s

/-- 04 R60, Table 4-1: a PCTL write. -/
def pushControl (code : Byte) (s : State) : State :=
  if code.toNat ≤ 0x3F then pushRepeat code.toNat s
  else if code = 0x40 then pushEnd s
  else if code = 0x41 then pushCancelled s
  else if h : 0x60 ≤ code.toNat ∧ code.toNat ≤ 0x77 then pushOpen ⟨code.toNat - 0x60, by omega⟩ s
  else pushProtocol s

/-! ### The commands -/

/-- DATA_WRITE (04 R63). -/
def execDataWrite (b : Byte) (s : State) : Outcome := .next (settle (pushData b (windowAccess s)))

/-- OPEN (04 R61). -/
def execPctlOpen (q : QId) (s : State) : Outcome := .next (settle (pushOpen q (windowAccess s)))

/-- REPEAT (04 R66). -/
def execPctlRepeat (n : Fin 64) (s : State) : Outcome := .next (pushRepeat n.val (windowAccess s))

/-- END (04 R74). -/
def execPctlEnd (s : State) : Outcome := .next (settle (pushEnd (windowAccess s)))

/-- CANCEL (04 R76). -/
def execPctlCancel (s : State) : Outcome := .next (settle (pushCancelled (windowAccess s)))

/-- PCTL_UNDEFINED_CODE (04 R60); a code that Table 4-1 lists acts as its command (log entry 7). -/
def execPctlUndefinedCode (code : Byte) (s : State) : Outcome :=
  if pctlUndefined code then .next (pushProtocol (windowAccess s))
  else .next (settle (pushControl code (windowAccess s)))

/-- 11 R167: the view mark after a status read. -/
def ViewMark.turned : ViewMark → ViewMark
  | .status => .result
  | .result => .status

/-- 11 R167: the byte a read of PSTAT returns. -/
def pstatByte (s : State) : Byte :=
  match s.window.pushView with
  | .status => pstatStatus s.push
  | .result => pstatResult s.push

/-- 11 R167: a read of PSTAT. -/
def readPstat (s : State) : State :=
  s.withWindow { s.window with
    pushView := s.window.pushView.turned, linkView := .status, dataOut := some (pstatByte s) }

/-- PSTAT_READ (11 R167, 04 R81). -/
def execPstatRead (s : State) : Outcome := .next (readPstat s)

end Sys2Proof.Machine
end

