-- ==== Sys2Proof/Machine/QueueCmds.lean ====
section
/-! DEFINITION. The QCMD commands (11 R168 to R170, 02 R28 to R33): FETCH, STORE, ENABLE, DISABLE, HOLD, RESUME,
FLUSH, CLEARFAULT and the undefined codes. -/

namespace Sys2Proof.Machine

/-! ### Decoding (11 R168) -/

/-- 11 R168 cases 1 and 3: FETCH and STORE with the page that QSEL names. -/
def pageCommand (f : Page → State → State) (s : State) : State :=
  if s.window.qres = .pending then s
  else match pageOf s.window.qsel with
    | some p => f p s
    | none => setQres .badQueue s

/-- 11 R168 cases 1, 3 and 4: a queue command, which wants QSEL to name a queue. -/
def queueCommand (f : QId → State → State) (s : State) : State :=
  if s.window.qres = .pending then s
  else match pageOf s.window.qsel with
    | some (.queue q) => f q s
    | some .link | some .array | none => setQres .badQueue s

/-! ### Queue commands (02 R28 to R33) -/

/-- A queue command's answer is a refusal, or OK with the descriptor it leaves. -/
def answerCommand (q : QId) (refusal : Option QRes) (y : Queue) (s : State) : State :=
  match refusal with
  | some r => setQres r s
  | none => setQres .ok (s.setQueue q y)

/-- 02 R28. -/
def enableRefusal (m : Mode) (x : Queue) : Option QRes :=
  if m ≠ .run ∧ m ≠ .config then some .badMode
  else if x.state ≠ .off then some .badState
  else none

/-- 02 R28: ENABLE. -/
def enableQueue (q : QId) (s : State) : State :=
  answerCommand q (enableRefusal s.modeCtl.mode (s.queue q)) { s.queue q with state := .active } s

/-- 02 R31. -/
def disableRefusal (x : Queue) : Option QRes :=
  if x.state = .off ∨ x.state = .faulted then some .badState
  else if x.pin ≠ none ∨ x.openRec ≠ none ∨ x.held then some .busy
  else if x.records ≠ 0 ∨ x.blocks ≠ 0 then some .notEmpty
  else none

/-- 02 R31: DISABLE. -/
def disableQueue (q : QId) (s : State) : State :=
  answerCommand q (disableRefusal (s.queue q)) { s.queue q with state := .off } s

/-- 02 R29: HOLD. -/
def holdQueue (q : QId) (s : State) : State :=
  answerCommand q (if (s.queue q).state = .active then none else some .badState) { s.queue q with state := .held } s

/-- 02 R30: RESUME. -/
def resumeQueue (q : QId) (s : State) : State :=
  answerCommand q (if (s.queue q).state = .held then none else some .badState) { s.queue q with state := .active } s

/-- 02 R32. -/
def flushRefusal (m : Mode) (x : Queue) : Option QRes :=
  if m = .formatting ∨ m = .halted then some .badMode
  else if x.state = .faulted then some .badState
  else if x.pin ≠ none ∨ x.openRec ≠ none ∨ x.held then some .busy
  else none

/-- 02 R32: FLUSH. -/
def flushQueue (q : QId) (s : State) : State :=
  match flushRefusal s.modeCtl.mode (s.queue q) with
  | some r => setQres r s
  | none => if (s.queue q).blocks = 0 then setQres .ok s else beginWork q .flush (setQres .pending s)

/-- 02 R33, 06 R105: CLEARFAULT. -/
def clearFault (q : QId) (s : State) : State :=
  if (s.queue q).state = .faulted then
    setQres .ok (drainLeft q (clearQueue .queueFault q (s.setQueue q (s.queue q).reinit)))
  else setQres .badState s

/-- 11 R168, Table 11-3: a QCMD write. -/
def queueControl (code : Byte) (s : State) : State :=
  if code = 0x01 then pageCommand fetchPage s
  else if code = 0x02 then pageCommand storePage s
  else if code = 0x03 then queueCommand enableQueue s
  else if code = 0x04 then queueCommand disableQueue s
  else if code = 0x05 then queueCommand holdQueue s
  else if code = 0x06 then queueCommand resumeQueue s
  else if code = 0x07 then queueCommand flushQueue s
  else if code = 0x08 then queueCommand clearFault s
  else if s.window.qres = .pending then s else setQres .badValue s

/-! ### The commands -/

/-- FETCH (11 R169). -/
def execQcmdFetch (s : State) : Outcome := .next (pageCommand fetchPage (windowAccess s))

/-- STORE (11 R170, 02 R16, 06 R106, 07 R125). -/
def execQcmdStore (s : State) : Outcome := .next (pageCommand storePage (windowAccess s))

/-- ENABLE (02 R28). -/
def execQcmdEnable (s : State) : Outcome := .next (settle (queueCommand enableQueue (windowAccess s)))

/-- DISABLE (02 R31). -/
def execQcmdDisable (s : State) : Outcome := .next (queueCommand disableQueue (windowAccess s))

/-- HOLD (02 R29). -/
def execQcmdHold (s : State) : Outcome := .next (settle (queueCommand holdQueue (windowAccess s)))

/-- RESUME (02 R30). -/
def execQcmdResume (s : State) : Outcome := .next (settle (queueCommand resumeQueue (windowAccess s)))

/-- FLUSH (02 R32). -/
def execQcmdFlush (s : State) : Outcome := .next (settle (queueCommand flushQueue (windowAccess s)))

/-- CLEARFAULT (02 R33). -/
def execQcmdClearfault (s : State) : Outcome := .next (queueCommand clearFault (windowAccess s))

/-- QCMD_UNDEFINED_CODE (11 R168); a code that Table 11-3 lists acts as its command (log entry 7). -/
def execQcmdUndefinedCode (code : Byte) (s : State) : Outcome :=
  if qcmdUndefined code then .next (queueControl code (windowAccess s))
  else .next (settle (queueControl code (windowAccess s)))

end Sys2Proof.Machine
end

