-- ==== Sys2Proof/Machine/WindowCmds.lean ====
section
/-! DEFINITION. RESET, and the accesses to the registers that have no row of their own (11 R166, R167). -/

namespace Sys2Proof.Machine

/-- 00 'Reset', 09 R149: every block takes its reset values; the level of LREQ, the array's clock of unknown contents
and the waiting commands are not the part's (log entries 1, 23, 31). -/
def resetPart (s : State) : State :=
  { State.reset with
    link := { Link.reset with lreq := s.link.lreq }
    array := { cells := [], epoch := s.array.epoch + 1 }
    pending := s.pending }

/-- RESET (09 R149). -/
def execReset (s : State) : Outcome := .next (resetPart s)

/-- 11 Table 11-1: a write to an offset that has a row of its own (log entry 7). -/
def writeOwnRow (offset : Nat) (v : Byte) (s : State) : State :=
  match offset with
  | 0x00 => pushData v s
  | 0x01 => pushControl v s
  | 0x02 => popControl v s
  | 0x12 => queueControl v s
  | 0x13 => modeRequest v s
  | 0x16 => writeEven v s
  | 0x17 => acknowledge v s
  | 0x18 => linkControl v s
  | 0x19 => globalCommand v stampCleared s
  | _ => s

/-- REGISTER_WRITE_OTHER (11 R166, R168). -/
def execRegisterWriteOther (offset : Fin 32) (v : Byte) (s : State) : Outcome :=
  let s := windowAccess s
  if writeHasOwnRow offset then .next (settle (writeOwnRow offset.val v s))
  else .next (s.withWindow (storeRegister offset.val v s.window))

/-- 11 Table 11-1: a read of an offset that has a row of its own (log entry 7). -/
def readOwnRow (offset : Nat) (s : State) : State :=
  match offset with
  | 0x00 => settle (readData s)
  | 0x01 => readPstat s
  | 0x14 => readEvid (windowAccess s)
  | 0x15 => readEvq (windowAccess s)
  | 0x18 => readLstat s
  | _ => s

/-- REGISTER_READ_OTHER (11 R166, R167). -/
def execRegisterReadOther (offset : Fin 32) (s : State) : Outcome :=
  match registerByte s offset.val with
  | some b => .next (drive b (windowAccess s))
  | none => .next (readOwnRow offset.val s)

end Sys2Proof.Machine
end

