-- ==== Sys2Proof/Machine/Dispatch.lean ====
section
/-! DEFINITION. What each command does. -/

namespace Sys2Proof.Machine

def exec (i : Instr) (s : State) : Host.Outcome State Fault Refusal :=
  match i with
  | .reset => Sys2Proof.Machine.execReset s
  | .dataWrite b => Sys2Proof.Machine.execDataWrite b s
  | .dataRead => Sys2Proof.Machine.execDataRead s
  | .pstatRead => Sys2Proof.Machine.execPstatRead s
  | .lstatRead => Sys2Proof.Machine.execLstatRead s
  | .pctlOpen q => Sys2Proof.Machine.execPctlOpen q s
  | .pctlRepeat n => Sys2Proof.Machine.execPctlRepeat n s
  | .pctlEnd => Sys2Proof.Machine.execPctlEnd s
  | .pctlCancel => Sys2Proof.Machine.execPctlCancel s
  | .pctlUndefinedCode code => Sys2Proof.Machine.execPctlUndefinedCode code s
  | .octlSelect q => Sys2Proof.Machine.execOctlSelect q s
  | .octlRelease => Sys2Proof.Machine.execOctlRelease s
  | .octlReturn => Sys2Proof.Machine.execOctlReturn s
  | .octlRewind => Sys2Proof.Machine.execOctlRewind s
  | .octlUndefinedCode code => Sys2Proof.Machine.execOctlUndefinedCode code s
  | .qcmdFetch => Sys2Proof.Machine.execQcmdFetch s
  | .qcmdStore => Sys2Proof.Machine.execQcmdStore s
  | .qcmdEnable => Sys2Proof.Machine.execQcmdEnable s
  | .qcmdDisable => Sys2Proof.Machine.execQcmdDisable s
  | .qcmdHold => Sys2Proof.Machine.execQcmdHold s
  | .qcmdResume => Sys2Proof.Machine.execQcmdResume s
  | .qcmdFlush => Sys2Proof.Machine.execQcmdFlush s
  | .qcmdClearfault => Sys2Proof.Machine.execQcmdClearfault s
  | .qcmdUndefinedCode code => Sys2Proof.Machine.execQcmdUndefinedCode code s
  | .modeRun => Sys2Proof.Machine.execModeRun s
  | .modeStop => Sys2Proof.Machine.execModeStop s
  | .modeAbort => Sys2Proof.Machine.execModeAbort s
  | .modeConfig => Sys2Proof.Machine.execModeConfig s
  | .modeUndefinedCode code => Sys2Proof.Machine.execModeUndefinedCode code s
  | .evidRead => Sys2Proof.Machine.execEvidRead s
  | .evqRead => Sys2Proof.Machine.execEvqRead s
  | .evenWrite v => Sys2Proof.Machine.execEvenWrite v s
  | .evack code => Sys2Proof.Machine.execEvack code s
  | .lcmdStart => Sys2Proof.Machine.execLcmdStart s
  | .lcmdStop => Sys2Proof.Machine.execLcmdStop s
  | .lcmdUndefinedCode code => Sys2Proof.Machine.execLcmdUndefinedCode code s
  | .arrayOn => Sys2Proof.Machine.execArrayOn s
  | .arrayOff => Sys2Proof.Machine.execArrayOff s
  | .format => Sys2Proof.Machine.execFormat s
  | .stampClear => Sys2Proof.Machine.execStampClear s
  | .cmdUndefinedCode code => Sys2Proof.Machine.execCmdUndefinedCode code s
  | .registerWriteOther offset v => Sys2Proof.Machine.execRegisterWriteOther offset v s
  | .alert => Sys2Proof.Machine.execAlert s
  | .lreqRise => Sys2Proof.Machine.execLreqRise s
  | .lreqFall => Sys2Proof.Machine.execLreqFall s
  | .peerAccept => Sys2Proof.Machine.execPeerAccept s
  | .peerReject => Sys2Proof.Machine.execPeerReject s
  | .lackRise => Sys2Proof.Machine.execLackRise s
  | .lackFall => Sys2Proof.Machine.execLackFall s
  | .linkBegin => Sys2Proof.Machine.execLinkBegin s
  | .inboundDataByte b => Sys2Proof.Machine.execInboundDataByte b s
  | .inboundEnd => Sys2Proof.Machine.execInboundEnd s
  | .inboundAbort => Sys2Proof.Machine.execInboundAbort s
  | .strayByte control b => Sys2Proof.Machine.execStrayByte control b s
  | .lstbFall => Sys2Proof.Machine.execLstbFall s
  | .linkTimeout => Sys2Proof.Machine.execLinkTimeout s
  | .idleGrantExpiry => Sys2Proof.Machine.execIdleGrantExpiry s
  | .stampTick => Sys2Proof.Machine.execStampTick s
  | .refreshTimerExpiry => Sys2Proof.Machine.execRefreshTimerExpiry s
  | .confirmation => Sys2Proof.Machine.execConfirmation s
  | .accessCompletion r => Sys2Proof.Machine.execAccessCompletion r s
  | .refreshCompletion => Sys2Proof.Machine.execRefreshCompletion s
  | .startCloseAllDone => Sys2Proof.Machine.execStartCloseAllDone s
  | .startRefreshDone => Sys2Proof.Machine.execStartRefreshDone s
  | .recoveryCloseAllDone => Sys2Proof.Machine.execRecoveryCloseAllDone s
  | .reissueCompletion r => Sys2Proof.Machine.execReissueCompletion r s
  | .registerReadOther offset => Sys2Proof.Machine.execRegisterReadOther offset s

end Sys2Proof.Machine
end

