-- ==== Sys2Proof/Machine/Clock.lean ====
section
/-! DEFINITION. One reference clock, what step does when no command waits (log entry 6). -/

namespace Sys2Proof.Machine

/-- The completion of an operation that has run out its clocks; the array does as it is asked. -/
def completionOf : ArrayOp → Instr
  | .access _ => .accessCompletion .asAsked
  | .refresh => .refreshCompletion
  | .startCloseAll => .startCloseAllDone
  | .startRefresh => .startRefreshDone
  | .recoveryCloseAll => .recoveryCloseAllDone
  | .reissue _ => .reissueCompletion .asAsked

/-- 08 R142: the front entry's alert window has run out; a window that a pending ALERT has stopped never does. -/
def confirmationDue (x : Seq) : Option Instr :=
  match windowed x with
  | [] => none
  | e :: _ => if e.window = 0 then some .confirmation else none

/-- 07 R137, 08 R140: the operation in progress has run out its clocks. -/
def completionDue (x : Seq) : Option Instr :=
  match x.op with
  | some (o, 0) => some (completionOf o)
  | some (_, _ + 1) | none => none

/-- 06 R102, R110: the link timer has run out. -/
def linkTimerDue (l : Link) : Option Instr :=
  match l.timer with
  | none => none
  | some t => if t.left ≠ 0 then none else if t.use = .idleGrant then some .idleGrantExpiry else some .linkTimeout

/-- 08 R139: the refresh timer has run out. -/
def refreshDue (x : Seq) : Option Instr := if x.timer = some 0 then some .refreshTimerExpiry else none

/-- 02 R37: the prescaler has run out. -/
def stampDue (x : Stamp) : Option Instr := if x.left = 0 then some .stampTick else none

/-- The event that falls now, in a fixed order (log entry 6). -/
def dueCommand (s : State) : Option Instr :=
  (confirmationDue s.seq).or ((completionDue s.seq).or ((linkTimerDue s.link).or ((refreshDue s.seq).or
    (stampDue s.stamp))))

/-- One clock less for an entry's alert window. -/
def Entry.clocked (e : Entry) : Entry := { e with window := e.window - 1 }

/-- 08 R142: a clock passes for the alert windows; those that a pending ALERT has stopped stand. -/
def windowsClocked (x : Seq) : List Entry :=
  if x.alertPending then x.unconfirmed else x.unconfirmed.map Entry.clocked

/-- One reference clock passes. -/
def clock (s : State) : State :=
  let s := s.withStamp { s.stamp with left := s.stamp.left - 1 }
  let s := s.withLink { s.link with timer := s.link.timer.map (fun t => { t with left := t.left - 1 }) }
  s.withSeq { s.seq with
    op := s.seq.op.map (fun o => (o.1, o.2 - 1)), timer := s.seq.timer.map (· - 1)
    unconfirmed := windowsClocked s.seq }

/-- With no command waiting: the event that is due falls, or one reference clock passes. -/
def tick (s : State) : Outcome :=
  match dueCommand s with
  | some c => exec c s
  | none => .next (clock s)

end Sys2Proof.Machine
end

