-- ==== Sys2Proof/Machine/Step.lean ====
section
/-! DEFINITION. One step: the command at the front of the queue, or a reference clock. -/

namespace Sys2Proof.Machine

/-- One step. -/
def step (s : State) : Outcome :=
  match s.pending with
  | c :: rest => exec c (s.withPending rest)
  | [] => tick s

/-- The command that a word spells, put at the front of the queue; no word spells one (log entry 31). -/
def State.withFetchWord (s : State) (nbits w : Nat) : State :=
  match Sys2Proof.decodeTableWord nbits w with
  | some c => s.withPending (c :: s.pending)
  | none => s

end Sys2Proof.Machine
end

