-- ==== Sys2Proof/Safety.lean ====
section
/-! DEFINITION. What the statements speak of: what stands in every reachable state, and what the reactions of the
blocks inside one event leave as it is. -/

namespace Sys2Proof.Machine

/-! ### What stands in every reachable state -/

/-- 09 R149: the stop in progress is present only in STOPPING. -/
def stopLegal (m : ModeCtl) : Prop := m.mode ≠ .stopping → m.stop = none

/-- 10 R164, 11 Table 11-2: bits 6 and 5 of EVEN read 0. -/
def evenLegal (e : Events) : Prop := e.even &&& 0x60 = 0

/-- 07 R127: the sequencer state names the operation in progress. -/
def opFits : SeqState → Option ArrayOp → Bool
  | .off, none | .ready, none | .fault, none => true
  | .starting, some .startCloseAll | .starting, some .startRefresh => true
  | .accessing, some (.access _) => true
  | .refreshing, some .refresh => true
  | .recovering, some .recoveryCloseAll | .recovering, some (.reissue _) => true
  | _, _ => false

/-- 08 R141: the place in the unconfirmed list that an operation in progress will take at its completion. -/
def placeOf : Option ArrayOp → Nat
  | none | some .recoveryCloseAll => 0
  | some .startCloseAll | some .startRefresh | some (.access _) | some .refresh | some (.reissue _) => 1

/-- The entry being re-issued, as a list. -/
def reissued : Option ArrayOp → List Entry
  | some (.reissue e) => [e]
  | _ => []

/-- 08 R139, R141, R144 to R146: the debt is 0 to 8, the unconfirmed list never holds more than 4 entries, not even
with every operation under way completed, and no replay count exceeds 3. -/
structure SeqLegal (x : Seq) : Prop where
  fits : opFits x.state (x.op.map (·.1))
  debt : x.debt ≤ Config.maxDebt
  count : x.unconfirmed.length + x.replay.length + placeOf (x.op.map (·.1)) ≤ Config.unconfirmedMax
  replays : ∀ e ∈ x.unconfirmed ++ x.replay ++ reissued (x.op.map (·.1)), e.replays ≤ Config.maxReplay
  replayOnly : x.state ≠ .recovering → x.replay = []
  offEmpty : x.state = .off → x.unconfirmed = []
  pendingOnly : x.alertPending → x.op ≠ none

/-- 02 R15, R18: the ranges of a descriptor's counts and of its configuration. A queue with an open record holds
fewer than 65,535 records, so that the commit cannot pass the greatest count. -/
def QueueInRange (x : Queue) : Prop :=
  x.records ≤ Config.maxRecords ∧ (x.openRec ≠ none → x.records < Config.maxRecords) ∧ x.discards ≤ 65535
    ∧ 1 ≤ x.blockLimit ∧ x.blockLimit ≤ Config.maxBlockLimit ∧ x.watermark ≤ 65535

/-- 04 R59: at most 64 bytes in the staging FIFO and at most 16,384 accepted. -/
def PushInRange (x : Push) : Prop := x.w.buf.length ≤ Config.fifoBytes ∧ x.accepted ≤ Config.maxPayload

/-- 02 R15, 04 R59: every descriptor and the push context are in range. -/
structure InRange (s : State) : Prop where
  queues : ∀ q, QueueInRange (s.queue q)
  push : PushInRange s.push

/-! ### What the statements count and rank by -/

/-- 11 R166, R168: SCRATCH and the staging registers. -/
def stagingKept (w : Window) : (Byte × Byte × Byte) × (Byte × Byte × Byte) :=
  ((w.scratch, w.qsel, w.qfld), (w.qv0, w.qv1, w.qv2))

/-- 10 R159: the queue number by which the marks of one per-queue cause are ranked. -/
def causeQueue : Cause → Nat
  | .global _ => 0
  | .queue _ q | .watermark q => q.val

/-- 10 R159: the cause c is ranked at or above the cause d. -/
def ranksFirst (c d : Cause) : Prop := c.code < d.code ∨ (c.code = d.code ∧ causeQueue c ≤ causeQueue d)

/-- 11 R167: a read of PSTAT. -/
def readsPstat : Instr → Bool
  | .pstatRead | .registerReadOther 0x01 => true
  | _ => false

/-- 11 R167: a read of LSTAT. -/
def readsLstat : Instr → Bool
  | .lstatRead | .registerReadOther 0x18 => true
  | _ => false

/-- 11 R166: the commands that are an access to the register window. -/
def isAccess : Instr → Bool
  | .dataWrite _ | .dataRead | .pstatRead | .lstatRead | .pctlOpen _ | .pctlRepeat _ | .pctlEnd | .pctlCancel
  | .pctlUndefinedCode _ | .octlSelect _ | .octlRelease | .octlReturn | .octlRewind | .octlUndefinedCode _
  | .qcmdFetch | .qcmdStore | .qcmdEnable | .qcmdDisable | .qcmdHold | .qcmdResume | .qcmdFlush | .qcmdClearfault
  | .qcmdUndefinedCode _ | .modeRun | .modeStop | .modeAbort | .modeConfig | .modeUndefinedCode _ | .evidRead
  | .evqRead | .evenWrite _ | .evack _ | .lcmdStart | .lcmdStop | .lcmdUndefinedCode _ | .arrayOn | .arrayOff
  | .format | .stampClear | .cmdUndefinedCode _ | .registerWriteOther _ _ | .registerReadOther _ => true
  | .reset | .alert | .lreqRise | .lreqFall | .peerAccept | .peerReject | .lackRise | .lackFall | .linkBegin
  | .inboundDataByte _ | .inboundEnd | .inboundAbort | .strayByte _ _ | .lstbFall | .linkTimeout
  | .idleGrantExpiry | .stampTick | .refreshTimerExpiry | .confirmation | .accessCompletion _ | .refreshCompletion
  | .startCloseAllDone | .startRefreshDone | .recoveryCloseAllDone | .reissueCompletion _ => false

/-- 03 R41: the blocks counted in the pool. -/
def poolBlocks (x : Pool) : Nat := x.chainCount + x.cache.length + releaseBlocks x.release

/-! ### What the reactions inside one event leave as it is -/

/-- 02 R15: the configuration of a queue. -/
def queueKept (x : Queue) : (Binding × Binding × Bool × Bool) × (Policy × Nat × Nat) :=
  ((x.producer, x.consumer, x.stamp, x.number), (x.policy, x.blockLimit, x.watermark))

/-- 04 R81: PLEN and the flags of the header patch. -/
def pushKept (x : Push) : Nat × Bool × Bool := (x.accepted, x.lost, x.repeated)

/-- 05 R98: the presented header and OREM. -/
def popKept (x : Pop) : Header × Nat := (x.r.hdr, x.r.remaining)

/-- 06 R105: the link parameters, LREQ, SENT and REJECTS. -/
def linkKept (x : Link) : (Option QId × Option QId × Nat × Nat) × (Nat × Bool × Nat × Nat) :=
  ((x.drainQ, x.fillQ, x.retryLimit, x.quota), (x.timeout, x.lreq, x.sent, x.rejects))

/-- 10 R159 to R164: the enables, the reported pair, the acknowledge queue and LINK_REJECT_LIMIT's queue. -/
def eventsKept (x : Events) : (Byte × Byte × Byte) × (Byte × QId) :=
  ((x.even, x.reportCode, x.reportQueue), (x.ackQueue, x.rejectQueue))

/-- 07 R124, 08 R139, R141: configuration, debt, lists, timer, counter and answer of the sequencer. -/
def seqKept (x : Seq) : (ArrayConfig × Nat × List Entry × List Entry) × (Option Nat × Nat × Bool × CmdResult) :=
  ((x.config, x.debt, x.unconfirmed, x.replay), (x.timer, x.alerts, x.alertPending, x.lastCommand))

/-- 07 R135: a choice has been made: an access or a refresh has begun. -/
def chosen (x y : Seq) : Prop :=
  x.state = .ready ∧ x.unconfirmed.length < Config.unconfirmedMax
    ∧ ((∃ c n, y.state = .accessing ∧ y.op = some (.access c, n)) ∨ (∃ n, y.state = .refreshing ∧ y.op = some (.refresh, n)))

/-- 09 R154: the stop has completed. -/
def stopped (x y : ModeCtl) : Prop := x.mode = .stopping ∧ y = { x with mode := .config, stop := none }

/-- What reactions inside one event leave as it is: the array's bytes, the commands that wait, the stamp, the staging
registers, every configuration, PLEN, OREM and the presented header, the enables; the sequencer's operation but for a
choice; the mode but for the completion of a stop. -/
structure Reaction (s t : State) : Prop where
  array : t.array = s.array
  pending : t.pending = s.pending
  stamp : t.stamp = s.stamp
  window : t.window = { s.window with qres := t.window.qres }
  seq : seqKept t.seq = seqKept s.seq
  op : (t.seq.state = s.seq.state ∧ t.seq.op = s.seq.op) ∨ chosen s.seq t.seq
  mode : t.modeCtl = s.modeCtl ∨ stopped s.modeCtl t.modeCtl
  push : pushKept t.push = pushKept s.push
  pop : popKept t.pop = popKept s.pop
  link : linkKept t.link = linkKept s.link
  events : eventsKept t.events = eventsKept s.events
  queues : ∀ q, queueKept (t.queue q) = queueKept (s.queue q)

end Sys2Proof.Machine
end

