-- ==== Sys2Proof/Certificates/Slice0/Obligations.lean ====
section
/-! DEFINITION. The statements for the provers. Where a conclusion reads `settle E`, E is the state the command's own
effect leaves and `settle` runs the reactions of the blocks inside the same event (log entry 3). -/

open Sys2Proof Sys2Proof.Machine

/-! ### The machine as a whole -/

/-- With c at the front of the queue a step runs c on the state with the queue's rest. -/
def Obligations.StepRunsFrontCommand : Prop :=
  ∀ (c : Instr) (rest : List Instr) (s : State), s.pending = c :: rest → step s = exec c (s.withPending rest)

/-- The model's choice (log entry 6): with no command waiting, the event that is due falls, or one reference clock
passes, which changes the running counts alone. That a pending ALERT stops the alert windows is 08 R142. -/
def Obligations.EmptyQueuePassesOneClock : Prop :=
  ∀ s : State, s.pending = [] →
    (∀ c, dueCommand s = some c → step s = exec c s)
      ∧ (dueCommand s = none → step s = .next
          { s with
            stamp := { s.stamp with left := s.stamp.left - 1 }
            link := { s.link with timer := s.link.timer.map (fun t => { t with left := t.left - 1 }) }
            seq := { s.seq with
              op := s.seq.op.map (fun o => (o.1, o.2 - 1)), timer := s.seq.timer.map (· - 1)
              unconfirmed := if s.seq.alertPending then s.seq.unconfirmed
                else s.seq.unconfirmed.map (fun e => { e with window := e.window - 1 }) } })

/-- RESET leaves every block at its reset values, and the reset values are those the spec writes down. The level of LREQ,
the waiting commands and the count of unknown array contents are the model's own conventions (log entries 1, 23, 31). -/
def Obligations.ResetValues : Prop :=
  (∀ s : State, ∃ t, exec .reset s = .next t
      ∧ t.window = Window.reset ∧ t.events = Events.reset ∧ t.modeCtl = ModeCtl.reset ∧ t.stamp = Stamp.reset
      ∧ (∀ q, t.queue q = Queue.reset) ∧ t.pool = Pool.reset ∧ t.push = Push.reset ∧ t.pop = Pop.reset
      ∧ t.link = { Link.reset with lreq := s.link.lreq } ∧ t.seq = Seq.reset
      ∧ t.array = { cells := [], epoch := s.array.epoch + 1 } ∧ t.pending = s.pending)
    ∧ (let s := State.reset
    (∀ q, let x := s.queue q
      x.state = .off ∧ x.producer = .window ∧ x.consumer = .window ∧ x.stamp = false ∧ x.number = false
        ∧ x.policy = .refuse ∧ x.blockLimit = 64 ∧ x.watermark = 0 ∧ x.records = 0 ∧ x.payload = 0 ∧ x.blocks = 0
        ∧ x.head = none ∧ x.tail = none ∧ x.nextSeq = 0 ∧ x.discards = 0 ∧ x.pin = none ∧ x.openRec = none
        ∧ x.fault = none ∧ x.held = false ∧ x.claims = [])
      ∧ s.stamp = { counter := 0, prescale := 50, left := 50 }
      ∧ s.pool = { state := .unformatted, chainHead := none, chainCount := 0, cache := [], release := []
                   waitingAllocs := [], waiting := [], progress := 0 }
      ∧ s.push.state = .idle ∧ s.push.w.queue = none ∧ s.push.w.openAns = none ∧ s.push.w.tag = none
      ∧ s.push.accepted = 0 ∧ s.push.armed = none ∧ s.push.remainder = none ∧ s.push.w.buf = []
      ∧ s.push.w.header = none ∧ s.push.w.write = none ∧ s.push.w.owed = none ∧ s.push.w.step = none
      ∧ s.push.lost = false ∧ s.push.repeated = false ∧ s.push.last = .none
      ∧ s.pop.state = .idle ∧ s.pop.pinAns = none ∧ s.pop.last = .none
      ∧ s.pop.r = { queue := none, header := none, hsize := 4
                    hdr := { length := 0, tag := 0, flags := 0, stamp := 0, seq := 0 }, fetch := none, unfetched := 0
                    remaining := 0, buf := [], run := none, unwanted := false, walk := .none }
      ∧ s.link.state = .off ∧ s.link.turn = .forward ∧ s.link.grants = 0 ∧ s.link.retryCount = 0
      ∧ s.link.retryRecord = none ∧ s.link.drainQ = none ∧ s.link.fillQ = none ∧ s.link.retryLimit = 3
      ∧ s.link.quota = 4 ∧ s.link.timeout = 200 ∧ s.link.sent = 0 ∧ s.link.received = 0 ∧ s.link.rejects = 0
      ∧ s.link.out.state = .idle ∧ s.link.inb.state = .idle ∧ s.link.last = .none
      ∧ s.link.lines = { ld := some 0, lstb := some false, lcmd := some false, lack := none, lrj := none, lgnt := false }
      ∧ s.seq.config = { banks := 4, rows := 4096, interval := 487, urgency := 6, window := 16, tOpen := 3, tClose := 3
                         tBurst := 2 }
      ∧ s.seq.state = .off ∧ s.seq.bankTable = [none, none, none, none] ∧ (∀ c, s.slot c = .empty)
      ∧ s.seq.waitList = [] ∧ s.seq.op = none ∧ s.seq.unconfirmed = [] ∧ s.seq.debt = 0 ∧ s.seq.timer = none
      ∧ s.seq.alerts = 0 ∧ s.seq.lastCommand = .none
      ∧ s.modeCtl = { mode := .config, stop := none, last := .none }
      ∧ (∀ c : Cause, c.isPending s = false) ∧ s.events.rejectQueue = 0 ∧ s.events.reportQueue = 0xFF
      ∧ s.events.ackQueue = 0xFF ∧ s.events.even = 0 ∧ s.intLine = false
      ∧ stagingKept s.window = ((0, 0, 0), (0, 0, 0)) ∧ s.window.qres = .ok ∧ s.window.pushView = .status
      ∧ s.window.linkView = .status)

/-! ### Push commands (04) -/

/-- 04 R63: a DATA write by the state of the push context; a read of DATA leaves that context as it is. -/
def Obligations.DataWriteByState : Prop :=
  ∀ (b : Byte) (s : State),
    (s.push.state = .awaitTag →
        exec (.dataWrite b) s = .next (settle ((windowAccess s).withPush
          { s.push with state := .filling, w := { s.push.w with tag := some b } })))
      ∧ (s.push.state = .filling →
        exec (.dataWrite b) s = .next (settle (pushPayload b (windowAccess s))))
      ∧ (s.push.state = .idle ∨ s.push.state = .committing ∨ s.push.state = .cancelling →
        exec (.dataWrite b) s = .next (settle (raise .pushProtocol (windowAccess s)))
          ∧ (raise .pushProtocol (windowAccess s)).push = s.push)
      ∧ exec .dataRead s = .next (settle (readData s)) ∧ (readData s).push = s.push

/-- 04 R65, R67, R68: a DATA write in FILLING with no repeat armed, and with a repeat of c copies armed. -/
def Obligations.PayloadWrites : Prop :=
  (∀ (b : Byte) (s : State), s.push.state = .filling → s.push.armed = none →
      (s.push.remainder ≠ none ∨ 64 ≤ s.push.w.buf.length →
          ∃ t, exec (.dataWrite b) s = .next t
            ∧ t = settle (raise .pushOverrun ((windowAccess s).withPush { s.push with lost := true }))
            ∧ t.push.accepted = s.push.accepted ∧ t.push.lost = true)
        ∧ (s.push.remainder = none → s.push.w.buf.length < 64 → s.push.accepted = 16384 →
          ∃ t, exec (.dataWrite b) s = .next t
            ∧ t = settle (raise .pushTooLong ((windowAccess s).withPush
                { s.push with state := .cancelling, w := { s.push.w with buf := [] }, last := .tooLong }))
            ∧ t.push.accepted = 16384 ∧ t.push.lost = s.push.lost)
        ∧ (s.push.remainder = none → s.push.w.buf.length < 64 → s.push.accepted < 16384 →
          ∃ t, exec (.dataWrite b) s = .next t
            ∧ t = settle ((windowAccess s).withPush
                { s.push with accepted := s.push.accepted + 1, w := { s.push.w with buf := s.push.w.buf ++ [b] } })
            ∧ t.push.accepted = s.push.accepted + 1 ∧ t.push.lost = s.push.lost))
    ∧ (∀ (b : Byte) (s : State) (c : Nat), s.push.state = .filling → s.push.armed = some c → 2 ≤ c → c ≤ 65 →
      (s.push.remainder ≠ none ∨ 64 ≤ s.push.w.buf.length →
          ∃ t, exec (.dataWrite b) s = .next t
            ∧ t = settle (raise .pushOverrun ((windowAccess s).withPush { s.push with lost := true, armed := none }))
            ∧ t.push.accepted = s.push.accepted ∧ t.push.lost = true)
        ∧ (s.push.remainder = none → s.push.w.buf.length < 64 → 16384 < s.push.accepted + c →
          ∃ t, exec (.dataWrite b) s = .next t
            ∧ t = settle (raise .pushTooLong ((windowAccess s).withPush
                { s.push with state := .cancelling, w := { s.push.w with buf := [] }, armed := none, last := .tooLong }))
            ∧ t.push.accepted = s.push.accepted ∧ t.push.lost = s.push.lost)
        ∧ (s.push.remainder = none → s.push.w.buf.length < 64 → s.push.accepted + c ≤ 16384 →
          let r := 64 - s.push.w.buf.length
          ∃ t, exec (.dataWrite b) s = .next t
            ∧ t = settle ((windowAccess s).withPush
                { s.push with
                  accepted := s.push.accepted + c, armed := none
                  w := { s.push.w with buf := s.push.w.buf ++ List.replicate (min c r) b }
                  remainder := if c ≤ r then none else some (b, c - r) })
            ∧ t.push.accepted = s.push.accepted + c ∧ t.push.lost = s.push.lost))

/-- 04 R60, R61: OPEN q by the state of the context and the mode. -/
def Obligations.OpenByStateAndMode : Prop :=
  ∀ (q : QId) (s : State),
    (s.push.state ≠ .idle → exec (.pctlOpen q) s = .next (settle (raise .pushProtocol (windowAccess s))))
      ∧ (s.push.state = .idle → s.modeCtl.mode ≠ .run →
        exec (.pctlOpen q) s = .next (settle (raise .pushRefused
          ((windowAccess s).withPush { s.push with last := .badMode }))))
      ∧ (s.push.state = .idle → s.modeCtl.mode = .run →
        ∃ t, exec (.pctlOpen q) s = .next t
          ∧ t = settle (makeClaim q (.openRec .push) ((windowAccess s).withPush
              { state := .awaitTag, accepted := 0, armed := none, remainder := none, lost := false
                repeated := false, last := s.push.last
                w := { queue := some q, openAns := some .awaited, tag := none, header := none, write := none
                       owed := none, step := none, buf := [], reserved := false, patched := false
                       claimed := false, dropped := false } }))
          ∧ pushKept t.push = (0, false, false))

/-- 04 R60, R66, R74, R76: REPEAT n, END and CANCEL, taken and refused. -/
def Obligations.RepeatEndCancel : Prop :=
  ∀ (n : Fin 64) (s : State),
    (s.push.state = .filling → s.push.armed = none →
        exec (.pctlRepeat n) s = .next ((windowAccess s).withPush
            { s.push with armed := some (n.val + 2), repeated := true })
          ∧ exec .pctlEnd s = .next (settle ((windowAccess s).withPush { s.push with state := .committing })))
      ∧ (s.push.state ≠ .filling ∨ s.push.armed ≠ none →
        exec (.pctlRepeat n) s = .next (raise .pushProtocol (windowAccess s))
          ∧ exec .pctlEnd s = .next (settle (raise .pushProtocol (windowAccess s))))
      ∧ (s.push.state = .awaitTag ∨ s.push.state = .filling →
        ∃ t, exec .pctlCancel s = .next t
          ∧ t = settle ((windowAccess s).withPush
              { s.push with state := .cancelling, w := { s.push.w with buf := [] }, armed := none, remainder := none
                            last := .cancelled })
          ∧ t.push.accepted = s.push.accepted)
      ∧ (s.push.state = .idle ∨ s.push.state = .committing ∨ s.push.state = .cancelling →
        exec .pctlCancel s = .next (settle (raise .pushProtocol (windowAccess s))))

/-- 04 R65, R66: LOST and REPEATED once set stay set until the next OPEN; RESET clears them too. -/
def Obligations.LostAndRepeatedStayUntilOpen : Prop :=
  ∀ (c : Instr) (s t : State), exec c s = .next t → c ≠ .reset →
    (∀ q, c ≠ .pctlOpen q) →
    (∀ code : Byte, c = .pctlUndefinedCode code ∨ c = .registerWriteOther 0x01 code →
      code.toNat < 0x60 ∨ 0x77 < code.toNat) →
    (s.push.lost = true → t.push.lost = true) ∧ (s.push.repeated = true → t.push.repeated = true)

/-- The frame of the push and pop commands: the array, the waiting commands, the stamp, the staging registers, the enables
and the reported pair, every configuration, the sequencer's counts and lists, and what the other engine shows stand. -/
def Obligations.EngineCommandsFrame : Prop :=
  (∀ (c : Instr) (s t : State),
      ((∃ b, c = .dataWrite b) ∨ (∃ q, c = .pctlOpen q) ∨ (∃ n, c = .pctlRepeat n) ∨ c = .pctlEnd ∨ c = .pctlCancel
        ∨ ∃ code, c = .pctlUndefinedCode code) →
      exec c s = .next t →
      t.array = s.array ∧ t.pending = s.pending ∧ t.stamp = s.stamp ∧ stagingKept t.window = stagingKept s.window
        ∧ popKept t.pop = popKept s.pop ∧ linkKept t.link = linkKept s.link ∧ eventsKept t.events = eventsKept s.events
        ∧ seqKept t.seq = seqKept s.seq ∧ (∀ q, queueKept (t.queue q) = queueKept (s.queue q))
        ∧ (t.modeCtl = s.modeCtl ∨ stopped s.modeCtl t.modeCtl))
    ∧ (∀ (c : Instr) (s t : State),
      (c = .dataRead ∨ (∃ q, c = .octlSelect q) ∨ c = .octlRelease ∨ c = .octlReturn ∨ c = .octlRewind
        ∨ ∃ code, c = .octlUndefinedCode code) →
      exec c s = .next t →
      t.array = s.array ∧ t.pending = s.pending ∧ t.stamp = s.stamp ∧ stagingKept t.window = stagingKept s.window
        ∧ pushKept t.push = pushKept s.push ∧ t.pop.r.hdr = s.pop.r.hdr ∧ linkKept t.link = linkKept s.link
        ∧ eventsKept t.events = eventsKept s.events ∧ seqKept t.seq = seqKept s.seq
        ∧ (∀ q, queueKept (t.queue q) = queueKept (s.queue q)) ∧ (t.modeCtl = s.modeCtl ∨ stopped s.modeCtl t.modeCtl))

/-! ### Pop commands (05) -/

/-- 05 R89: a DATA read: the byte driven, the byte taken from the pop FIFO, OREM and the causes. -/
def Obligations.DataReadByState : Prop :=
  ∀ s : State,
    (s.pop.state = .ready → s.pop.r.remaining = 0 →
        ∃ t, exec .dataRead s = .next t ∧ t = settle (raise .popPastEnd (drive 0 (windowAccess s)))
          ∧ t.window.dataOut = some 0 ∧ t.pop.r.remaining = 0)
      ∧ (s.pop.state = .ready → s.pop.r.remaining ≠ 0 → s.pop.r.buf = [] →
        ∃ t, exec .dataRead s = .next t ∧ t = settle (raise .popUnderrun (drive 0 (windowAccess s)))
          ∧ t.window.dataOut = some 0 ∧ t.pop.r.remaining = s.pop.r.remaining)
      ∧ (∀ b rest, s.pop.state = .ready → s.pop.r.remaining ≠ 0 → s.pop.r.buf = b :: rest →
        ∃ t, exec .dataRead s = .next t
          ∧ t = settle ((drive b (windowAccess s)).withPop
              { s.pop with r := { s.pop.r with buf := rest, remaining := s.pop.r.remaining - 1 } })
          ∧ t.window.dataOut = some b ∧ t.pop.r.remaining = s.pop.r.remaining - 1)
      ∧ (s.pop.state = .loading →
        ∃ t, exec .dataRead s = .next t ∧ t = settle (raise .popUnderrun (drive 0 (windowAccess s)))
          ∧ t.window.dataOut = some 0)
      ∧ (s.pop.state = .idle ∨ s.pop.state = .releasing →
        ∃ t, exec .dataRead s = .next t ∧ t = settle (drive 0 (windowAccess s)) ∧ t.window.dataOut = some 0)

/-- 05 R83, R84: SELECT q by the state of the context and the mode; refused pop commands change the last result alone and
raise no cause. -/
def Obligations.SelectAndRefusedPopCommands : Prop :=
  (∀ (q : QId) (s : State),
      (s.pop.state ≠ .idle →
          exec (.octlSelect q) s = .next (settle ((windowAccess s).withPop { s.pop with last := .busy })))
        ∧ (s.pop.state = .idle → s.modeCtl.mode ≠ .run →
          exec (.octlSelect q) s = .next (settle ((windowAccess s).withPop { s.pop with last := .badMode })))
        ∧ (s.pop.state = .idle → s.modeCtl.mode = .run →
          ∃ t, exec (.octlSelect q) s = .next t
            ∧ t = settle (makeClaim q (.pin .pop true) ((windowAccess s).withPop
                { s.pop with
                  state := .loading, pinAns := some .awaited
                  r := { s.pop.r with queue := some q, header := none, fetch := none, run := none, buf := []
                                      unfetched := 0, remaining := 0, walk := .none } }))
            ∧ popKept t.pop = (s.pop.r.hdr, 0)))
    ∧ (∀ (code : Byte) (s : State),
      let refused (r : PopResult) : State := (windowAccess s).withPop { s.pop with last := r }
      (octlUndefined code = true → exec (.octlUndefinedCode code) s = .next (refused .badCode))
        ∧ (s.pop.state ≠ .ready →
          exec .octlRelease s = .next (settle (refused .notReady))
            ∧ exec .octlRewind s = .next (settle (refused .notReady)))
        ∧ (s.pop.state = .idle ∨ s.pop.state = .releasing →
          exec .octlReturn s = .next (settle (refused .notReady))))

/-- 05 R90, R91, R92, R93: RELEASE, RETURN and REWIND where they are taken. -/
def Obligations.PopCommandsTaken : Prop :=
  ∀ s : State,
    (s.pop.state = .ready →
        ∃ t, exec .octlRelease s = .next t
          ∧ t = settle ((windowAccess s).withPop
              { s.pop with
                state := .releasing
                r := { s.pop.r with buf := [], walk := .walking
                                    unwanted := s.pop.r.unwanted || slotHolds s .popr .payloadRead } })
          ∧ popKept t.pop = popKept s.pop)
      ∧ (∀ h, s.pop.state = .ready → s.pop.r.header = some h →
        ∃ t, exec .octlRewind s = .next t
          ∧ t = settle ((windowAccess s).withPop
              { s.pop with
                last := .rewound
                r := { s.pop.r with
                  buf := [], remaining := s.pop.r.hdr.length, unfetched := s.pop.r.hdr.length
                  fetch := some { h with offset := h.offset + s.pop.r.hsize }
                  run := some { first := h.block, prev := none, count := 1 }
                  unwanted := s.pop.r.unwanted || !slotFree s .popr } })
          ∧ popKept t.pop = (s.pop.r.hdr, s.pop.r.hdr.length))
      ∧ (∀ q, s.pop.state = .loading ∨ s.pop.state = .ready → s.pop.r.queue = some q →
        ∃ t, exec .octlReturn s = .next t
          ∧ t = settle (makeClaim q (.unpin .pop false) (disownPins q ((windowAccess s).withPop
              { s.pop with
                state := .idle, pinAns := none, last := .returned
                r := { s.pop.r with
                  queue := none, header := none, fetch := none, run := none, buf := [], walk := .none
                  unwanted := s.pop.r.unwanted || !slotFree s .popr } })))
          ∧ popKept t.pop = popKept s.pop)

/-! ### Claims at the Queue Table (02) -/

/-- 02 R18, R22: the answers to an open claim and to the Pop Engine's pin claim, by the first condition that applies; a taken
pin claim is answered with the head position. 02 R19, 03 R46, 04 R73: an extension claim, and what follows OK at the pool and
LIMIT by the policy; a join claim on the descriptor. 02 R23: an unpin claim. 02 R21, R24, R25, 03 R48, R49, R51: a cancel and a
remove claim: the segment that leaves, the wait for an owed link word or for the pool, and the whole effect where the
handover is taken at once. Two points are the model's choice: the segment is formed on the descriptor as it stands (log entry
11), and LIMIT for a record that is already being cancelled ends the block step alone (log entry 38). -/
def Obligations.ClaimAnswers : Prop :=
  let chainOf (x : Queue) : Option Segment := match x.head, x.tailBlock with
    | some h, some b => if x.blocks = 0 then none else some { first := h.block, last := b, count := x.blocks }
    | _, _ => none
  let gone (left : Option Segment) : Nat := (left.map (·.count)).getD 0
  let withdrawn (x : Queue) : Queue := { x with
    blocks := 0, head := none, tail := none, tailBlock := none, joined := none, second := none }
  -- the handover of a segment: t is the state after the claim, done the descriptor and told the claimant once it is taken
  let handover (q : QId) (s : State) (w : Work) (left : Option Segment) (done : Queue) (t : State) (told : Prop) : Prop :=
    let x := s.queue q
    let owes (g : Segment) (p : Producer) : Prop := x.openRec = some p ∧ (s.writer p).owed.map (·.1) = some g.last
    let posted : Prop := ∃ g p, left = some g ∧ owes g p ∧ slotHolds s p.client .linkWord = true
    let room : Prop := s.pool.cache.length < 7 ∨ s.pool.cache.length = 7 ∧ slotHolds s .pool .fetch = false
    let takes (g : Segment) : Prop := s.pool.state ≠ .formatted ∨ g.count = 1 ∧ room ∨ s.pool.release.length < 4
    let joins (promised : Option Producer) (b : Nat) : List CacheBlock := { block := b, promised } :: s.pool.cache
    (posted → t = s.setQueue q { x with work := w, wait := .forLinkWord })
      ∧ (¬posted → left = none → t.queue q = done ∧ t.pool = s.pool ∧ told)
      ∧ (∀ g, ¬posted → left = some g → ¬takes g →
        t = (s.setQueue q { x with work := w, wait := .atPool }).withPool
          { s.pool with waiting := s.pool.waiting ++ [.ofQueue q] })
      ∧ (∀ g, ¬posted → left = some g → takes g →
        t.queue q = done ∧ told ∧ (∀ p, owes g p → (t.writer p).owed = none)
          ∧ (s.pool.state ≠ .formatted → t.pool = s.pool)
          ∧ (s.pool.state = .formatted → ¬(g.count = 1 ∧ room) →
            t.pool = { s.pool with release := s.pool.release ++ [g] })
          ∧ (s.pool.state = .formatted → g.count = 1 → room → s.pool.waitingAllocs = [] →
            t.pool = { s.pool with cache := joins none g.first })
          ∧ (∀ a more, s.pool.state = .formatted → g.count = 1 → room → s.pool.waitingAllocs = a :: more →
            t.pool = { s.pool with cache := joins (some a) g.first, waitingAllocs := more }))
  (∀ (q : QId) (p : Producer) (s : State),
      let x := s.queue q
      let bound : Prop := match p with | .push => x.producer = .window | .link => x.producer = .link
      (x.state = .off ∨ x.state = .faulted → answerOpen q p s = openRefused p .badState s)
        ∧ (x.state = .active ∨ x.state = .held → ¬bound → answerOpen q p s = openRefused p .badBinding s)
        ∧ (x.state = .active ∨ x.state = .held → bound → x.openRec ≠ none →
          answerOpen q p s = openRefused p .busy s)
        ∧ (x.state = .active ∨ x.state = .held → bound → x.openRec = none → x.records = 65535 →
          answerOpen q p s = openRefused p .full s)
        ∧ (x.state = .active ∨ x.state = .held → bound → x.openRec = none → x.records ≠ 65535 →
          answerOpen q p s = openTaken p (s.setQueue q { x with openRec := some p })))
    ∧ (∀ (q : QId) (s : State),
      let x := s.queue q
      let u := clearQueue .nonempty q s
      (x.state ≠ .active → answerPin q .pop true s = popRefused .badState u)
        ∧ (x.state = .active → x.consumer = .link → answerPin q .pop true s = popRefused .badBinding u)
        ∧ (x.state = .active → x.consumer = .window → x.records = 0 → answerPin q .pop true s = popRefused .empty u)
        ∧ (x.state = .active → x.consumer = .window → x.records ≠ 0 → x.pin ≠ none →
          answerPin q .pop true s = popRefused .busy u)
        ∧ (∀ h, x.state = .active → x.consumer = .window → x.records ≠ 0 → x.pin = none → x.head = some h →
          let t := answerPin q .pop true s
          t.queue q = { x with pin := some .pop } ∧ t.pop.last = .selected ∧ t.pop.pinAns = some .taken
            ∧ t.pop.r.header = some h ∧ t.pop.r.hsize = headerSize x
            ∧ t.pop.r.run = some { first := h.block, prev := none, count := 1 }))
    -- the extension and join claims
    ∧ (∀ (q : QId) (p : Producer) (s : State),
      let x := s.queue q
      let t := answerExtension q p s
      let wanted : Prop := x.openRec = some p ∧ (phase s p = .filling ∨ phase s p = .committing)
      let below : Prop := wanted ∧ x.blocks < x.blockLimit
      let atLimit : Prop := wanted ∧ x.blockLimit ≤ x.blocks ∧ (s.writer p).queue = some q
      (¬wanted → t = endStep p s)
        ∧ (below → s.pool.state ≠ .formatted → t = setStage p .exhausted s)
        ∧ (∀ above b under, below → s.pool.state = .formatted → (∀ c ∈ above, c.promised ≠ none) →
          s.pool.cache = above ++ { block := b, promised := none } :: under →
          t = setStage p (.granted b) (s.withPool { s.pool with
            cache := above ++ { block := b, promised := some p } :: under }))
        ∧ (below → s.pool.state = .formatted → (∀ c ∈ s.pool.cache, c.promised ≠ none) →
          (0 < s.pool.chainCount ∨ s.pool.release ≠ [] →
              t = setStage p .allocation (s.withPool { s.pool with waitingAllocs := s.pool.waitingAllocs ++ [p] }))
            ∧ (s.pool.chainCount = 0 → s.pool.release = [] → t = setStage p .exhausted s))
        ∧ (atLimit → x.policy = .discardOldest → t = makeClaim q (.discard p) (setStage p .discard s))
        ∧ (atLimit → x.policy = .refuse →
          phase t p = .cancelling ∧ (t.writer p).step = none ∧ (t.writer p).buf = [] ∧ match p with
            | .push => t.push.last = .refused ∧ (Cause.global .pushRefused).isPending t = true
            | .link => t.link.inb.verdict = some .reject))
    ∧ (∀ (q : QId) (p : Producer) (b : Nat) (s : State),
      let x := s.queue q
      let t := answerJoin q p b s
      (x.openRec ≠ some p → t.queue q = x ∧ (t.writer p).step = none)
        ∧ (x.openRec = some p → x.blocks = 0 → t.queue q = { x with
          blocks := 1, tailBlock := some b, joined := none
          head := some { block := b, offset := 4 }, tail := some { block := b, offset := 4 } })
        ∧ (x.openRec = some p → x.blocks ≠ 0 → t.queue q = { x with
          blocks := x.blocks + 1, tailBlock := some b
          joined := some (match x.joined with | none => (b, 1) | some (f, n) => (f, n + 1)) }))
    -- the unpin, cancel and remove claims
    ∧ (∀ (q : QId) (k : Consumer) (noticed : Bool) (s : State),
      let x := s.queue q
      let t := answerUnpin q k noticed s
      (x.pin = some k → t.queue q = { x with pin := none }) ∧ (x.pin ≠ some k → t.queue q = x))
    ∧ (∀ (q : QId) (p : Producer) (s : State),
      let x := s.queue q
      let t := answerCancel q p s
      let left : Option Segment := if x.records = 0 then chainOf x else match x.joined, x.tailBlock with
        | some (b, n), some e => some { first := b, last := e, count := n }
        | _, _ => none
      let closed : Queue := { x with openRec := none, work := .idle, wait := .none }
      let done : Queue := if x.records = 0 then withdrawn closed else { closed with
        blocks := x.blocks - gone left, joined := none, tailBlock := x.tail.map (·.block) }
      let told : Prop := match p with
        | .push => t.push.state = .idle ∧ t.push.last = s.push.last
        | .link => t.link.inb.cancelDone = true
      (x.openRec ≠ some p → t.queue q = x ∧ told)
        ∧ (x.openRec = some p → handover q s (.cancel p) left done t told))
    ∧ (∀ (q : QId) (k : Consumer) (r : Removal) (s : State),
      let x := s.queue q
      let t := answerRemove q k r s
      let newHead : Option Pos := if 1 < x.records then some (r.next.getD (x.second.getD r.endPos)) else
        match x.openRec with | some p => (s.writer p).header | none => none
      let left : Option Segment := match newHead, r.run.prev with
        | none, _ => chainOf x
        | some h, some b =>
          if h.block ≠ r.endPos.block then some { first := r.run.first, last := r.endPos.block, count := r.run.count }
          else if 2 ≤ r.run.count then some { first := r.run.first, last := b, count := r.run.count - 1 } else none
        | some h, none =>
          if h.block ≠ r.endPos.block then some { first := r.run.first, last := r.endPos.block, count := r.run.count }
          else none
      let counted : Queue := { x with
        records := x.records - 1, payload := x.payload - r.length, pin := none, second := none, work := .idle
        wait := .none }
      let done : Queue := match newHead with
        | none => withdrawn counted
        | some h => { counted with
          head := some h, blocks := x.blocks - gone left, tail := if 1 < x.records then x.tail else some h
          joined := if 1 < x.records then x.joined else none }
      let told : Prop := match k with
        | .pop => t.pop.state = .idle ∧ t.pop.last = .released
        | .link => t.link.last = .accepted ∧ t.link.retryCount = 0 ∧ t.link.retryRecord = none
      (x.pin ≠ some k → t.queue q = x) ∧ (x.pin = some k → handover q s (.remove k r) left done t told))

/-- 02 R20, R38, 04 R75: a commit claim of the Push Engine, taken and refused. -/
def Obligations.CommitClaimAnswers : Prop :=
  ∀ (q : QId) (n : Nat) (h e : Pos) (s : State),
    let x := s.queue q
    let t := answerCommit q .push n h e s
    (x.openRec = some .push →
        (t.queue q).records = x.records + 1 ∧ (t.queue q).payload = x.payload + n ∧ (t.queue q).tail = some e
          ∧ (t.queue q).nextSeq = x.nextSeq + 1 ∧ (t.queue q).openRec = none ∧ (t.queue q).head = x.head
          ∧ (t.queue q).blocks = x.blocks ∧ t.push.state = .idle ∧ t.push.last = .committed
          ∧ t.push.accepted = s.push.accepted
          ∧ (t.events.nonempty[q.val]'q.isLt = (s.events.nonempty[q.val]'q.isLt || x.records == 0)))
      ∧ (x.openRec ≠ some .push → t.queue q = x ∧ t.push.state = .cancelling ∧ t.push.last = .dropped)

/-! ### The indexed window and the queue commands (11, 02) -/

/-- 11 R168: a QCMD write while QRES reads PENDING, with a QSEL that names no page the command takes, or with a code
that Table 11-3 does not list. -/
def Obligations.QcmdDecoding : Prop :=
  ∀ (code : Byte) (s : State),
    let n := s.window.qsel.toNat
    let still (t : State) : Prop :=
      exec .qcmdEnable s = .next (settle t) ∧ exec .qcmdHold s = .next (settle t)
        ∧ exec .qcmdResume s = .next (settle t) ∧ exec .qcmdFlush s = .next (settle t)
        ∧ exec .qcmdDisable s = .next t ∧ exec .qcmdClearfault s = .next t
    let pages (t : State) : Prop := exec .qcmdFetch s = .next t ∧ exec .qcmdStore s = .next t
    (s.window.qres = .pending → still (windowAccess s) ∧ pages (windowAccess s)
        ∧ (qcmdUndefined code = true → exec (.qcmdUndefinedCode code) s = .next (windowAccess s)))
      ∧ (s.window.qres ≠ .pending →
        (qcmdUndefined code = true → exec (.qcmdUndefinedCode code) s = .next (setQres .badValue (windowAccess s)))
          ∧ (24 ≤ n → still (setQres .badQueue (windowAccess s)))
          ∧ (24 ≤ n → n ≠ 30 → n ≠ 31 → pages (setQres .badQueue (windowAccess s))))

/-- 11 R169, Tables 11-4 to 11-6: FETCH, and what each field of a page reads. -/
def Obligations.FetchReadsField : Prop :=
  (∀ (p : Page) (s : State), s.window.qres ≠ .pending → pageOf s.window.qsel = some p →
      let f := s.window.qfld.toNat
      let fields : Nat := match p with | .queue _ => 16 | .link => 9 | .array => 16
      (fields ≤ f → exec .qcmdFetch s = .next (setQres .badField (windowAccess s)))
        ∧ (f < fields → ∃ n, fieldValue s p f = some n
          ∧ exec .qcmdFetch s = .next ((windowAccess s).withWindow
            { (windowAccess s).window with
              qv0 := BitVec.ofNat 8 (n / 65536), qv1 := BitVec.ofNat 8 (n / 256), qv2 := BitVec.ofNat 8 n
              qres := .ok })))
    ∧ (∀ (q : QId) (s : State),
      let x := s.queue q
      let l := s.link
      let c := s.seq.config
      (List.range 17).map (fieldValue s (.queue q))
          = [some x.state.code, some (flagBit (x.producer == .link) + 2 * flagBit (x.consumer == .link)),
             some (flagBit x.stamp + 2 * flagBit x.number + 4 * flagBit (x.policy == .discardOldest)),
             some x.blockLimit, some x.watermark, some x.records, some (x.payload % 65536), some (x.payload / 65536),
             some x.blocks, some ((x.head.map (·.block)).getD 0xFFFFFF), some ((x.head.map (·.offset)).getD 0),
             some ((x.tail.map (·.block)).getD 0xFFFFFF), some ((x.tail.map (·.offset)).getD 0), some x.nextSeq.toNat,
             some x.discards, some (pinCode x.pin + 4 * openCode x.openRec + 16 * faultCode x.fault), none]
        ∧ (List.range 10).map (fieldValue s .link)
          = [some ((l.drainQ.map (·.val)).getD 0xFF), some ((l.fillQ.map (·.val)).getD 0xFF), some l.retryLimit,
             some l.quota, some l.timeout, some l.state.code, some l.sent, some l.received, some l.rejects, none]
        ∧ (List.range 17).map (fieldValue s .array)
          = [some c.banks, some c.rows, some c.interval, some c.urgency, some c.window,
             some (c.tOpen * 256 + c.tClose * 16 + c.tBurst), some (c.banks * c.rows * 8),
             some (s.pool.chainCount + (s.pool.release.map (·.count)).sum), some s.pool.cache.length,
             some s.pool.state.code, some s.pool.progress, some s.seq.debt, some s.seq.alerts,
             some (s.stamp.counter.toNat % 65536), some (s.stamp.counter.toNat / 65536), some s.stamp.prescale, none])

/-- 02 R16, 11 R170: STORE to a field of a queue page. -/
def Obligations.StoreToQueuePage : Prop :=
  ∀ (q : QId) (s : State), s.window.qres ≠ .pending → s.window.qsel.toNat = q.val →
    let x := s.queue q
    let f := s.window.qfld.toNat
    let v := s.window.qv0.toNat * 65536 + s.window.qv1.toNat * 256 + s.window.qv2.toNat
    let answer (r : QRes) : Prop := exec .qcmdStore s = .next (setQres r (windowAccess s))
    let stored (y : Queue) : Prop := exec .qcmdStore s = .next (setQres .ok ((windowAccess s).setQueue q y))
    (f = 0 ∨ (5 ≤ f ∧ f ≤ 12) ∨ 15 ≤ f → answer .badField)
      ∧ (f = 1 ∨ f = 2 ∨ f = 3 ∨ f = 13 → x.state ≠ .off ∨ x.blocks ≠ 0 → answer .badState)
      ∧ (x.state = .off → x.blocks = 0 →
        (f = 1 → 4 ≤ v → answer .badValue)
          ∧ (f = 1 → v < 4 → stored { x with
              producer := if v % 2 = 1 then .link else .window, consumer := if 2 ≤ v then .link else .window })
          ∧ (f = 2 → 8 ≤ v → answer .badValue)
          ∧ (f = 2 → v < 8 → stored { x with
              stamp := decide (v % 2 = 1), number := decide (v / 2 % 2 = 1)
              policy := if 4 ≤ v then .discardOldest else .refuse })
          ∧ (f = 3 → v = 0 ∨ 1048575 < v → answer .badValue)
          ∧ (f = 3 → 1 ≤ v → v ≤ 1048575 → stored { x with blockLimit := v })
          ∧ (f = 13 → 65535 < v → answer .badValue)
          ∧ (f = 13 → v ≤ 65535 → stored { x with nextSeq := BitVec.ofNat 16 v }))
      ∧ (f = 4 → 65535 < v → answer .badValue)
      ∧ (f = 4 → v ≤ 65535 → stored { x with watermark := v })
      ∧ (f = 14 → stored { x with discards := 0 })

/-- 06 R106, 11 R170: STORE to a field of the link page. -/
def Obligations.StoreToLinkPage : Prop :=
  ∀ s : State, s.window.qres ≠ .pending → s.window.qsel = 30 →
    let l := s.link
    let f := s.window.qfld.toNat
    let v := s.window.qv0.toNat * 65536 + s.window.qv1.toNat * 256 + s.window.qv2.toNat
    let answer (r : QRes) : Prop := exec .qcmdStore s = .next (setQres r (windowAccess s))
    let stored (y : Link) : Prop := exec .qcmdStore s = .next (setQres .ok ((windowAccess s).withLink y))
    let still : Prop :=
      l.state = .off ∧ l.out.state = .idle ∧ l.inb.state = .idle ∧ l.out.r.unwanted = false
    (f = 5 ∨ 9 ≤ f → answer .badField)
      ∧ (f = 6 → stored { l with sent := 0 }) ∧ (f = 7 → stored { l with received := 0 })
      ∧ (f = 8 → stored { l with rejects := 0 })
      ∧ (f ≤ 4 → ¬still → answer .badState)
      ∧ (still →
        (f = 0 → v = 0xFF → stored { l with drainQ := none, retryCount := 0, retryRecord := none })
          ∧ (∀ q : QId, f = 0 → v = q.val → stored { l with drainQ := some q, retryCount := 0, retryRecord := none })
          ∧ (f = 1 → v = 0xFF → stored { l with fillQ := none })
          ∧ (∀ q : QId, f = 1 → v = q.val → stored { l with fillQ := some q })
          ∧ (f = 0 ∨ f = 1 → 24 ≤ v → v ≠ 0xFF → answer .badValue)
          ∧ (f = 2 → v ≤ 7 → stored { l with retryLimit := v }) ∧ (f = 2 → 7 < v → answer .badValue)
          ∧ (f = 3 → 1 ≤ v → v ≤ 15 → stored { l with quota := v }) ∧ (f = 3 → v = 0 ∨ 15 < v → answer .badValue)
          ∧ (f = 4 → 1 ≤ v → v ≤ 255 → stored { l with timeout := v })
          ∧ (f = 4 → v = 0 ∨ 255 < v → answer .badValue))

/-- 07 R125, 02 R37, 11 R170: STORE to a field of the array and pool page. -/
def Obligations.StoreToArrayPage : Prop :=
  ∀ s : State, s.window.qres ≠ .pending → s.window.qsel = 31 →
    let x := s.seq
    let c := x.config
    let f := s.window.qfld.toNat
    let v := s.window.qv0.toNat * 65536 + s.window.qv1.toNat * 256 + s.window.qv2.toNat
    let answer (r : QRes) : Prop := exec .qcmdStore s = .next (setQres r (windowAccess s))
    let stored (y : Seq) : Prop := exec .qcmdStore s = .next (setQres .ok ((windowAccess s).withSeq y))
    (6 ≤ f → f ≠ 15 → answer .badField)
      ∧ (f = 15 → v = 0 ∨ 65536 < v → answer .badValue)
      ∧ (f = 15 → 1 ≤ v → v ≤ 65536 → exec .qcmdStore s
          = .next (setQres .ok ((windowAccess s).withStamp { s.stamp with prescale := v, left := v })))
      ∧ (f ≤ 5 → s.modeCtl.mode ≠ .config → answer .badMode)
      ∧ (f ≤ 5 → s.modeCtl.mode = .config → x.state ≠ .off → answer .badState)
      ∧ (s.modeCtl.mode = .config → x.state = .off →
        (f = 0 → v = 4 ∨ v = 8 →
            stored { x with config := { c with banks := v }, bankTable := List.replicate v none })
          ∧ (f = 0 → v ≠ 4 → v ≠ 8 → answer .badValue)
          ∧ (f = 1 → v = 4096 ∨ v = 8192 ∨ v = 16384 → stored { x with config := { c with rows := v } })
          ∧ (f = 1 → v ≠ 4096 → v ≠ 8192 → v ≠ 16384 → answer .badValue)
          ∧ (f = 2 → 1 ≤ v → v ≤ 4095 → stored { x with config := { c with interval := v } })
          ∧ (f = 2 → v = 0 ∨ 4095 < v → answer .badValue)
          ∧ (f = 3 → 1 ≤ v → v ≤ 8 → stored { x with config := { c with urgency := v } })
          ∧ (f = 3 → v = 0 ∨ 8 < v → answer .badValue)
          ∧ (f = 4 → 1 ≤ v → v ≤ 63 → stored { x with config := { c with window := v } })
          ∧ (f = 4 → v = 0 ∨ 63 < v → answer .badValue)
          ∧ (∀ a b d, f = 5 → v = a * 256 + b * 16 + d → 1 ≤ a → a ≤ 15 → 1 ≤ b → b ≤ 15 → 1 ≤ d → d ≤ 15 →
            stored { x with config := { c with tOpen := a, tClose := b, tBurst := d } })
          ∧ (f = 5 → 4095 < v ∨ v / 256 = 0 ∨ v / 16 % 16 = 0 ∨ v % 16 = 0 → answer .badValue))

/-- 02 R28, R29, R30, R33, 06 R105: ENABLE, HOLD, RESUME and CLEARFAULT. -/
def Obligations.QueueStateCommands : Prop :=
  (∀ (q : QId) (s : State), s.window.qres ≠ .pending → s.window.qsel.toNat = q.val →
      let x := s.queue q
      let m := s.modeCtl.mode
      let refused (r : QRes) : Outcome := .next (settle (setQres r (windowAccess s)))
      let becomes (y : QState) : Outcome :=
        .next (settle (setQres .ok ((windowAccess s).setQueue q { x with state := y })))
      (m ≠ .run → m ≠ .config → exec .qcmdEnable s = refused .badMode)
        ∧ (m = .run ∨ m = .config → x.state ≠ .off → exec .qcmdEnable s = refused .badState)
        ∧ (m = .run ∨ m = .config → x.state = .off → exec .qcmdEnable s = becomes .active)
        ∧ (x.state ≠ .active → exec .qcmdHold s = refused .badState)
        ∧ (x.state = .active → exec .qcmdHold s = becomes .held)
        ∧ (x.state ≠ .held → exec .qcmdResume s = refused .badState)
        ∧ (x.state = .held → exec .qcmdResume s = becomes .active))
    ∧ (∀ (q : QId) (s : State), s.window.qres ≠ .pending → s.window.qsel.toNat = q.val →
      let x := s.queue q
      (x.state ≠ .faulted → exec .qcmdClearfault s = .next (setQres .badState (windowAccess s)))
        ∧ (x.state = .faulted → ∃ t, exec .qcmdClearfault s = .next t
          ∧ t.window = { (windowAccess s).window with qres := .ok }
          ∧ (t.queue q).state = .off ∧ (t.queue q).fault = none ∧ (t.queue q).records = 0 ∧ (t.queue q).payload = 0
          ∧ (t.queue q).blocks = 0 ∧ (t.queue q).head = none ∧ (t.queue q).tail = none ∧ (t.queue q).pin = none
          ∧ (t.queue q).openRec = none ∧ (t.queue q).claims = [] ∧ (t.queue q).held = false
          ∧ queueKept (t.queue q) = queueKept x ∧ (t.queue q).nextSeq = x.nextSeq ∧ (t.queue q).discards = x.discards
          ∧ (∀ r, r ≠ q → t.queue r = s.queue r)
          ∧ t.events = { s.events with queueFault := s.events.queueFault.set q.val false q.isLt }
          ∧ t.link = (if s.link.drainQ = some q then { s.link with retryCount := 0, retryRecord := none } else s.link)
          ∧ t.modeCtl = s.modeCtl ∧ t.stamp = s.stamp ∧ t.pool = s.pool ∧ t.push = s.push ∧ t.pop = s.pop
          ∧ t.seq = s.seq ∧ t.array = s.array ∧ t.pending = s.pending))

/-- 02 R31: DISABLE. -/
def Obligations.DisableAnswers : Prop :=
  ∀ (q : QId) (s : State), s.window.qres ≠ .pending → s.window.qsel.toNat = q.val →
    let x := s.queue q
    let busy : Prop := x.pin ≠ none ∨ x.openRec ≠ none ∨ x.held = true
    let refused (r : QRes) : Outcome := .next (setQres r (windowAccess s))
    (x.state = .off ∨ x.state = .faulted → exec .qcmdDisable s = refused .badState)
      ∧ (x.state = .active ∨ x.state = .held → busy → exec .qcmdDisable s = refused .busy)
      ∧ (x.state = .active ∨ x.state = .held → ¬busy → 0 < x.records ∨ 0 < x.blocks →
        exec .qcmdDisable s = refused .notEmpty)
      ∧ (x.state = .active ∨ x.state = .held → ¬busy → x.records = 0 → x.blocks = 0 →
        exec .qcmdDisable s = .next (setQres .ok ((windowAccess s).setQueue q { x with state := .off })))

/-- 02 R32, R25: FLUSH: refused, taken on an empty queue, taken with its blocks, or waiting at the pool. -/
def Obligations.FlushAnswers : Prop :=
  ∀ (q : QId) (s : State), s.window.qres ≠ .pending → s.window.qsel.toNat = q.val →
    let x := s.queue q
    let m := s.modeCtl.mode
    let busy : Prop := x.pin ≠ none ∨ x.openRec ≠ none ∨ x.held = true
    let answered (r : QRes) : Outcome := .next (settle (setQres r (windowAccess s)))
    let u := (setQres .pending (windowAccess s)).setQueue q { x with work := .flush }
    (m = .formatting ∨ m = .halted → exec .qcmdFlush s = answered .badMode)
      ∧ (m ≠ .formatting → m ≠ .halted → x.state = .faulted → exec .qcmdFlush s = answered .badState)
      ∧ (m ≠ .formatting → m ≠ .halted → x.state ≠ .faulted → busy → exec .qcmdFlush s = answered .busy)
      ∧ (m ≠ .formatting → m ≠ .halted → x.state ≠ .faulted → ¬busy → x.blocks = 0 →
        exec .qcmdFlush s = answered .ok)
      ∧ (∀ h b, m ≠ .formatting → m ≠ .halted → x.state ≠ .faulted → ¬busy → x.blocks ≠ 0 → x.head = some h →
        x.tailBlock = some b →
        let g : Segment := { first := h.block, last := b, count := x.blocks }
        (poolTakes g u = true →
            exec .qcmdFlush s = .next (settle (setQres .ok (drainLeft q ((poolPut g u).setQueue q
              { x with
                records := 0, payload := 0, blocks := 0, head := none, tail := none, tailBlock := none
                joined := none, second := none, work := .idle, wait := .none })))))
          ∧ (poolTakes g u = false →
            exec .qcmdFlush s = .next (settle ((u.setQueue q { x with work := .flush, wait := .atPool }).withPool
              { u.pool with waiting := u.pool.waiting ++ [.ofQueue q] }))))

/-! ### Modes (09) -/

/-- 09 R150 to R153: the RUN, STOP and ABORT requests, and a code that Table 9-1 does not list. -/
def Obligations.ModeRequestsAnswers : Prop :=
  (∀ s : State,
      (s.modeCtl.mode ≠ .config →
          exec .modeRun s = .next ((windowAccess s).withModeCtl { s.modeCtl with last := .badMode }))
        ∧ (s.modeCtl.mode = .config →
          s.seq.state = .off ∨ s.seq.state = .starting ∨ s.seq.state = .fault ∨ s.pool.state ≠ .formatted →
          exec .modeRun s = .next ((windowAccess s).withModeCtl { s.modeCtl with last := .badState }))
        ∧ (s.modeCtl.mode = .config → s.seq.state ≠ .off → s.seq.state ≠ .starting → s.seq.state ≠ .fault →
          s.pool.state = .formatted →
          exec .modeRun s = .next ((windowAccess s).withModeCtl { mode := .run, stop := none, last := .ok })))
    ∧ (∀ (code : Byte) (s : State),
      let m := s.modeCtl.mode
      let refused : Outcome := .next (settle ((windowAccess s).withModeCtl { s.modeCtl with last := .badMode }))
      let aborting : Outcome := .next (settle (linkStop (popAbort (pushAbort
        ((windowAccess s).withModeCtl { mode := .stopping, stop := some .abort, last := .ok })))))
      (m = .run → exec .modeStop s
          = .next (settle ((windowAccess s).withModeCtl { mode := .stopping, stop := some .gentle, last := .ok })))
        ∧ (m ≠ .run → exec .modeStop s = refused)
        ∧ (m = .run → exec .modeAbort s = aborting)
        ∧ (m = .stopping → s.modeCtl.stop ≠ some .abort → exec .modeAbort s = aborting)
        ∧ (m = .stopping → s.modeCtl.stop = some .abort →
          exec .modeAbort s = .next (settle ((windowAccess s).withModeCtl { s.modeCtl with last := .ok })))
        ∧ (m = .config ∨ m = .formatting ∨ m = .halted → exec .modeAbort s = refused)
        ∧ (modeUndefined code = true → exec (.modeUndefinedCode code) s
          = .next ((windowAccess s).withModeCtl { s.modeCtl with last := .badCode })))

/-- 09 R157, 07 R131, 03 R58, 02 R39: the CONFIG request. That the array's contents are unknown from then on is
log entry 1. -/
def Obligations.ModeConfigAnswers : Prop :=
  ∀ s : State,
    (s.modeCtl.mode ≠ .halted →
        exec .modeConfig s = .next ((windowAccess s).withModeCtl { s.modeCtl with last := .badMode }))
      ∧ (s.modeCtl.mode = .halted → ∃ t, exec .modeConfig s = .next t
        ∧ t.modeCtl = { mode := .config, stop := none, last := .ok }
        ∧ t.seq = { s.seq with
            state := .off, bankTable := List.replicate s.seq.config.banks none, op := none, slots := Slots.empty
            waitList := [], unconfirmed := [], replay := [], alertPending := false, debt := 0, timer := none }
        ∧ t.pool = Pool.reset
        ∧ (∀ q, (t.queue q).state = .off ∧ (t.queue q).records = 0 ∧ (t.queue q).payload = 0
            ∧ (t.queue q).blocks = 0 ∧ (t.queue q).head = none ∧ (t.queue q).tail = none ∧ (t.queue q).pin = none
            ∧ (t.queue q).openRec = none ∧ (t.queue q).fault = none ∧ (t.queue q).held = false
            ∧ (t.queue q).claims = [] ∧ queueKept (t.queue q) = queueKept (s.queue q)
            ∧ (t.queue q).nextSeq = (s.queue q).nextSeq ∧ (t.queue q).discards = (s.queue q).discards)
        ∧ (∀ c : Cause, t.events.even = s.events.even ∧
            c.isPending t = (match c with
              | .global .arrayFault | .global .refreshOverrun => false
              | .queue .queueFault _ => false
              | .watermark _ => false
              | c => c.isPending s))
        ∧ t.push = s.push ∧ t.pop = s.pop ∧ linkKept t.link = linkKept s.link ∧ t.stamp = s.stamp
        ∧ stagingKept t.window = stagingKept s.window ∧ t.pending = s.pending ∧ t.array.cells = [])

/-- 09 R154: when a stop completes, and what its completion does. -/
def Obligations.StopCompletes : Prop :=
  ∀ s : State,
    let still : Prop :=
      s.modeCtl.mode = .stopping ∧ s.push.state = .idle ∧ s.pop.state = .idle ∧ s.pop.r.unwanted = false
        ∧ (s.link.state = .off ∨ s.link.state = .fault) ∧ s.link.out.state = .idle ∧ s.link.inb.state = .idle
        ∧ s.link.out.r.unwanted = false ∧ s.pool.release = [] ∧ s.pool.waiting = []
    (still → stopMicro s
        = some (raise .modeDone (s.withModeCtl { s.modeCtl with mode := .config, stop := none })))
      ∧ (¬still → stopMicro s = none)

/-! ### Events (10) -/

/-- 10 R158, R163, 02 R36: a raised cause is pending, a cleared one is not, and every other mark stands; WATERMARK stands
exactly while the watermark is not 0 and the records count is at or above it, whatever is read or acknowledged. -/
def Obligations.MarksAndWatermark : Prop :=
  (∀ (g : GlobalCause) (k : QueueCause) (q : QId) (c : Cause) (s : State),
      c.isPending (raise g s) = (decide (c = .global g) || c.isPending s)
        ∧ c.isPending (clear g s) = (!decide (c = .global g) && c.isPending s)
        ∧ c.isPending (raiseQueue k q s) = (decide (c = .queue k q) || c.isPending s)
        ∧ c.isPending (clearQueue k q s) = (!decide (c = .queue k q) && c.isPending s))
    ∧ ((∀ (q : QId) (s : State), (Cause.watermark q).isPending s = true ↔
        (s.queue q).watermark ≠ 0 ∧ (s.queue q).watermark ≤ (s.queue q).records)
      ∧ ∀ (c : Instr) (s t : State), (c = .evidRead ∨ c = .evqRead ∨ ∃ code, c = .evack code) → exec c s = .next t →
        ∀ q, (Cause.watermark q).isPending t = (Cause.watermark q).isPending s)

/-- 10 R159: a read of EVID reports the highest-ranked pending cause and clears it if it is of class E. -/
def Obligations.EvidReportsHighest : Prop :=
  ∀ s : State,
    ((∀ c : Cause, c.isPending s = false) →
        exec .evidRead s = .next (drive 0 (report 0 0xFF (windowAccess s))))
      ∧ (∀ c : Cause, c.isPending s = true → (∀ d : Cause, d.isPending s = true → ranksFirst c d) →
        let code : Byte := BitVec.ofNat 8 c.code
        let u := report code (reportedQueue s c) (windowAccess s)
        exec .evidRead s = .next (drive code (match c with
          | .global .formatDone => clear .formatDone u
          | .global .modeDone => clear .modeDone u
          | .global .arrayAlert => clear .arrayAlert u
          | _ => u)))
      ∧ ((∃ c : Cause, c.isPending s = true) →
        ∃ c : Cause, c.isPending s = true ∧ ∀ d : Cause, d.isPending s = true → ranksFirst c d)

/-- 10 R160: a read of EVQ. -/
def Obligations.EvqGivesReportedQueue : Prop :=
  (∀ s : State, ∃ t, exec .evqRead s = .next t
      ∧ t = ((windowAccess s).withEvents { s.events with ackQueue := s.events.reportQueue }).withWindow
          { (windowAccess s).window with dataOut := some s.events.reportQueue })
    ∧ (∀ s t : State, exec .evidRead s = .next t → t.events.ackQueue = s.events.ackQueue)
    ∧ State.reset.events.reportQueue = 0xFF ∧ State.reset.events.ackQueue = 0xFF

/-- 10 R161: a write to EVACK, and a read of it. -/
def Obligations.EvackClearsByCode : Prop :=
  ∀ (code : Byte) (s : State),
    (∀ g : GlobalCause, g.code = code.toNat → g ≠ .arrayFault → g ≠ .poolFault → g ≠ .refreshOverrun →
        g ≠ .formatDone → g ≠ .modeDone → g ≠ .arrayAlert →
        exec (.evack code) s = .next (clear g (windowAccess s)))
      ∧ (∀ q : QId, s.events.ackQueue.toNat = q.val →
        (code = 0x0C → exec (.evack code) s = .next (clearQueue .queueDiscard q (windowAccess s)))
          ∧ (code = 0x10 → exec (.evack code) s = .next (clearQueue .nonempty q (windowAccess s))))
      ∧ (24 ≤ s.events.ackQueue.toNat → code = 0x0C ∨ code = 0x10 →
        exec (.evack code) s = .next (windowAccess s))
      ∧ (code.toNat ≤ 0x04 ∨ code = 0x0F ∨ 0x11 ≤ code.toNat → exec (.evack code) s = .next (windowAccess s))
      ∧ exec (.registerReadOther 0x17) s = .next (drive 0 (windowAccess s))

/-- 10 R164: the enables. -/
def Obligations.EvenHoldsEnables : Prop :=
  (∀ (v : Byte) (s : State), ∃ t, exec (.evenWrite v) s = .next t
      ∧ t = (windowAccess s).withEvents { s.events with even := v &&& 0x9F }
      ∧ (∀ i < 5, t.events.even.getLsbD i = v.getLsbD i) ∧ t.events.even.getLsbD 7 = v.getLsbD 7
      ∧ (∀ c : Cause, c.isPending t = c.isPending s))
    ∧ (∀ s : State, exec (.registerReadOther 0x16) s = .next (drive s.events.even (windowAccess s)))
    ∧ State.reset.events.even = 0

/-- 10 R165: INT. -/
def Obligations.IntLineFollowsMarks : Prop :=
  (∀ s : State, s.intLine = true ↔
      s.events.even.getLsbD 7 = true
        ∧ ∃ c : Cause, c.isPending s = true ∧ s.events.even.getLsbD (classOf c.code) = true)
    ∧ State.reset.intLine = false

/-! ### The Record Link (06) -/

/-- 06 R107, R108: START and STOP, and an LCMD code that Table 6-2 does not list. -/
def Obligations.LinkCommandsAnswers : Prop :=
  ∀ (code : Byte) (s : State),
    let l := s.link
    let refused (r : LinkResult) : Outcome := .next (settle ((windowAccess s).withLink { l with last := r }))
    let quiet : Prop := l.out.state = .idle ∧ l.inb.state = .idle ∧ l.out.r.unwanted = false
    let bound : Prop := (∀ q, l.drainQ = some q → (s.queue q).consumer = .link)
      ∧ (∀ q, l.fillQ = some q → (s.queue q).producer = .link)
    let e := linkStop (windowAccess s)
    (s.modeCtl.mode ≠ .run → exec .lcmdStart s = refused .badMode)
      ∧ (s.modeCtl.mode = .run → l.state ≠ .off → exec .lcmdStart s = refused .badState)
      ∧ (s.modeCtl.mode = .run → l.state = .off → ¬quiet → exec .lcmdStart s = refused .busy)
      ∧ (s.modeCtl.mode = .run → l.state = .off → quiet → ¬bound → exec .lcmdStart s = refused .badBinding)
      ∧ (s.modeCtl.mode = .run → l.state = .off → quiet → bound →
        exec .lcmdStart s = .next (settle ((windowAccess s).withLink
          { l with state := .idle, turn := .forward, grants := 0, last := .started })))
      ∧ (l.state = .off → exec .lcmdStop s = refused .stopped)
      ∧ (l.state ≠ .off → exec .lcmdStop s = .next (settle e)
        ∧ e.link.state = .off ∧ e.link.last = .stopped ∧ e.link.lines = Lines.rest ∧ e.link.timer = none
        ∧ e.link.sending = none ∧ e.link.receive = .complete ∧ e.link.retryCount = l.retryCount
        ∧ e.link.retryRecord = l.retryRecord ∧ linkKept e.link = linkKept l
        ∧ (l.out.state = .loading ∨ l.out.state = .streaming → e.link.out.state = .idle ∧ e.link.out.r.buf = []
          ∧ e.link.out.r.unwanted = (l.out.r.unwanted || !slotFree s .linkr))
        ∧ (l.out.state = .settling ∨ l.out.state = .idle → e.link.out = l.out)
        ∧ (l.inb.state = .filling ∨ l.inb.state = .committing →
          e.link.inb.state = .cancelling ∧ e.link.inb.w.buf = [] ∧ e.link.inb.held = none)
        ∧ (l.inb.state = .discarding → e.link.inb = Inbound.reset)
        ∧ (l.inb.state = .cancelling ∨ l.inb.state = .idle → e.link.inb = l.inb))
      ∧ (lcmdUndefined code = true →
        exec (.lcmdUndefinedCode code) s = .next ((windowAccess s).withLink { l with last := .badCode }))

/-- 06 R109, R112: the arbiter's choice in IDLE. -/
def Obligations.ArbiterActsByCase : Prop :=
  ∀ s : State,
    let l := s.link
    let ready (q : QId) : Prop := l.drainQ = some q ∧ (s.queue q).state = .active ∧ (s.queue q).consumer = .link
      ∧ (s.queue q).records ≠ 0 ∧ (s.queue q).pin = none ∧ (s.queue q).held = false
    (s.modeCtl.mode ≠ .run → arbiter s = some (s.withLink { l with state := .off }))
      ∧ (∀ q h, s.modeCtl.mode = .run → ready q → (s.queue q).head = some h → l.lreq = false ∨ l.turn = .forward →
        ∃ t, arbiter s = some t ∧ t.link.state = .sending ∧ t.queue q = { s.queue q with pin := some .link }
          ∧ t.link.out.state = .loading ∧ t.link.out.r.queue = some q ∧ t.link.out.r.header = some h
          ∧ t.link.out.r.hsize = headerSize (s.queue q)
          ∧ t.link.out.r.run = some { first := h.block, prev := none, count := 1 }
          ∧ t.link.retryRecord = some h
          ∧ t.link.retryCount = if l.retryRecord = some h then l.retryCount else 0)
      ∧ (s.modeCtl.mode = .run → l.lreq = true → (∀ q, ¬ready q) ∨ l.turn = .reverse →
        ∃ t, arbiter s = some t ∧ t.link.state = .granted ∧ t.link.grants = 0
          ∧ t.link.lines = { ld := none, lstb := none, lcmd := none, lack := some false, lrj := some false
                             lgnt := true })
      ∧ (s.modeCtl.mode = .run → l.lreq = false → (∀ q, ¬ready q) → arbiter s = none)

/-- 06 R109 to R111, R120: the edges of LREQ and the expiries of the link timer. The link ends in FAULT at a timed
wait's expiry and reclaims at an idle grant's; an expiry with no such timer running has no effect (log entry 5). -/
def Obligations.LreqEdgesAndTimers : Prop :=
  ∀ s : State,
    let l := s.link
    let e := linkTimeout s
    (∃ t, exec .lreqRise s = .next t ∧ t = settle (s.withLink { l with lreq := true }) ∧ t.link.lreq = true)
      ∧ (∃ t, exec .lreqFall s = .next t
        ∧ t = settle (s.withLink { l with
            lreq := false, lreqFell := l.lreqFell || (l.state == .reclaiming && l.tooLate) })
        ∧ t.link.lreq = false)
      ∧ (∀ t, l.timer = some t → t.use ≠ .idleGrant → exec .linkTimeout s = .next (settle e)
        ∧ e.link.state = .fault ∧ e.link.last = .timeout ∧ e.link.lines = Lines.rest ∧ e.link.timer = none
        ∧ e.link.retryCount = l.retryCount ∧ e.link.retryRecord = l.retryRecord
        ∧ (Cause.global .linkTimeout).isPending e = true
        ∧ (l.out.state = .loading ∨ l.out.state = .streaming → e.link.out.state = .idle)
        ∧ (l.inb.state = .filling ∨ l.inb.state = .committing → e.link.inb.state = .cancelling))
      ∧ (∀ t, l.timer = some t → t.use = .idleGrant → l.state = .granted →
        exec .idleGrantExpiry s = .next (settle (s.withLink
          { l with lines := { l.lines with lgnt := false }, state := .reclaiming, timer := none, tooLate := false
                   lreqFell := false })))
      ∧ ((∀ t, l.timer = some t → t.use = .idleGrant) → exec .linkTimeout s = .next (settle s))
      ∧ ((∀ t, l.timer = some t → t.use ≠ .idleGrant ∨ l.state ≠ .granted) →
        exec .idleGrantExpiry s = .next (settle s))

/-- 06 R100, R114, R115: the handshake as sender, and the peer's verdict at the LACK of END. An edge that the engine does not
wait for has no effect (log entries 5, 26). The model's choice: LD0 to LD7 and the LCMD line keep the offered byte when LSTB
drops and when LACK falls (log entry 33). -/
def Obligations.SenderHandshake : Prop :=
  ∀ s : State,
    let l := s.link
    let taken (i : FrameItem) : Link :=
      { l with lines := { l.lines with lstb := some false }, sending := some (i, true)
               timer := some { use := .lackFall, left := l.timeout * 256 } }
    let settling (v : Verdict) : Outbound :=
      { l.out with state := .settling, verdict := some v, r := { l.out.r with walk := .walking } }
    (∀ i, l.state = .sending → l.sending = some (i, false) → i ≠ .endByte →
        exec .lackRise s = .next (settle (s.withLink (taken i))))
      ∧ (l.state = .sending → l.sending = some (.endByte, false) →
        (∃ t, exec .peerAccept s = .next t
            ∧ t = settle (s.withLink { taken .endByte with sent := min (l.sent + 1) 65535, out := settling .accept })
            ∧ t.link.sent = min (l.sent + 1) 65535 ∧ t.link.rejects = l.rejects)
          ∧ ∃ t, exec .peerReject s = .next t
            ∧ t = settle (s.withLink { taken .endByte with
                rejects := min (l.rejects + 1) 65535, retryCount := l.retryCount + 1, out := settling .reject })
            ∧ t.link.rejects = min (l.rejects + 1) 65535 ∧ t.link.sent = l.sent)
      ∧ (∀ i, l.state = .sending → l.sending = some (i, true) →
        exec .lackFall s = .next (settle (s.withLink { l with sending := none, timer := none })))
      ∧ ((∀ i, l.state = .sending → l.sending ≠ some (i, false)) → exec .lackRise s = .next (settle s)
        ∧ exec .peerAccept s = .next (settle s) ∧ exec .peerReject s = .next (settle s))
      ∧ ((∀ i, l.state = .sending → l.sending ≠ some (i, true)) → exec .lackFall s = .next (settle s))

/-- 06 R101, R102, R104, R110, R111, R116: BEGIN, and the fall of LSTB that completes a byte. Two clauses are the model's
choice: that the wait for the next byte is timed after BEGIN's own completion too (log entry 12), and that a fall of LSTB
before LACK has risen has no effect (log entries 25 and 5). -/
def Obligations.BeginAndByteEnd : Prop :=
  ∀ s : State,
    let l := s.link
    let acked := ackByte .plain false l
    let down : Link :=
      { l with lines := { l.lines with lack := some false, lrj := some false }, receive := .complete, timer := none }
    (l.state = .granted → l.receive = .complete → l.fillQ = none →
        exec .linkBegin s = .next (settle (s.withLink { acked with
          state := .receiving, inb := { Inbound.reset with state := .discarding, verdict := some .reject } })))
      ∧ (∀ q, l.state = .granted → l.receive = .complete → l.fillQ = some q →
        exec .linkBegin s = .next (settle (makeClaim q (.openRec .link) (s.withLink { acked with
          state := .receiving
          inb := { Inbound.reset with
            state := .filling, w := { Writer.reset with queue := some q, openAns := some .awaited } } }))))
      ∧ (l.state = .reclaiming → l.receive = .complete → l.tooLate = false →
        exec .linkBegin s = .next (settle (s.withLink { acked with tooLate := true, lreqFell := false })))
      ∧ (l.state = .receiving ∨ (l.state = .reclaiming ∧ l.tooLate = true) → l.receive = .complete →
        exec .linkBegin s = .next (settle (raise .linkProtocol (s.withLink acked))))
      ∧ (l.receive = .acked .plain → l.state = .receiving ∨ l.tooLate = true →
        exec .lstbFall s = .next (settle (s.withLink
          { down with timer := some { use := .nextLstb, left := l.timeout * 256 } })))
      ∧ (l.receive = .acked .plain → l.state ≠ .receiving → l.tooLate = false →
        exec .lstbFall s = .next (settle (s.withLink down)))
      ∧ (l.receive = .acked .endByte ∨ l.receive = .acked .abortByte → l.state = .receiving →
        exec .lstbFall s = .next (settle (s.withLink
          { down with inb := Inbound.reset, grants := min 15 (l.grants + 1), state := .granted })))
      ∧ (l.receive = .acked .endByte ∨ l.receive = .acked .abortByte → l.state ≠ .receiving →
        exec .lstbFall s = .next (settle (s.withLink { down with tooLate := false })))
      ∧ ((∀ k, l.receive ≠ .acked k) → exec .lstbFall s = .next (settle s))

/-- 06 R101, R104, R117, R119: a data byte from the peer. That frame bytes stands where the byte is dropped, in CANCELLING,
DISCARDING, or beyond the declared length, is the model's choice (log entry 32). In OFF, IDLE, SENDING and FAULT a rise of
LSTB is no event (R101), and the command that spells one has no effect (log entry 5). -/
def Obligations.InboundDataByte : Prop :=
  ∀ (b : Byte) (s : State), s.link.receive = .complete →
    let l := s.link
    let i := l.inb
    let acked := ackByte .plain false l
    let answered (x : Link) : Prop := exec (.inboundDataByte b) s = .next (settle (s.withLink x))
    (l.state = .receiving → i.state = .filling →
        (i.frameBytes = 0 → answered { acked with inb := { i with frameBytes := 1, w := { i.w with tag := some b } } })
          ∧ (i.frameBytes = 1 → answered { acked with inb := { i with frameBytes := 2, lengthHigh := some b } })
          ∧ (∀ m : Byte, i.frameBytes = 2 → i.lengthHigh = some m → m.toNat * 256 + b.toNat ≤ 16384 →
            answered { acked with inb := { i with frameBytes := 3, declared := some (m.toNat * 256 + b.toNat) } })
          ∧ (∀ m : Byte, i.frameBytes = 2 → i.lengthHigh = some m → 16384 < m.toNat * 256 + b.toNat →
            exec (.inboundDataByte b) s = .next (settle (inboundReject (s.withLink
              { acked with inb := { i with frameBytes := 3, declared := some (m.toNat * 256 + b.toNat) } }))))
          ∧ (∀ n, 3 ≤ i.frameBytes → i.declared = some n → i.frameBytes - 3 + 1 ≤ n → i.w.buf.length < 32 →
            answered { acked with inb := { i with
              frameBytes := i.frameBytes + 1, w := { i.w with buf := i.w.buf ++ [b] } } })
          ∧ (∀ n, 3 ≤ i.frameBytes → i.declared = some n → i.frameBytes - 3 + 1 ≤ n → 32 ≤ i.w.buf.length →
            answered { l with
              receive := .withheld .plain, timer := none
              inb := { i with frameBytes := i.frameBytes + 1, held := some b } })
          ∧ (∀ n, 3 ≤ i.frameBytes → i.declared = some n → n < i.frameBytes - 3 + 1 →
            exec (.inboundDataByte b) s = .next (settle (inboundReject (s.withLink acked)))))
      ∧ (l.state = .receiving → i.state ≠ .filling → answered acked)
      ∧ (l.state = .reclaiming → l.tooLate = true → answered acked)
      ∧ (l.state = .granted ∨ (l.state = .reclaiming ∧ l.tooLate = false) →
        exec (.inboundDataByte b) s = .next (settle (raise .linkProtocol (s.withLink acked))))
      ∧ (l.state = .off ∨ l.state = .idle ∨ l.state = .sending ∨ l.state = .fault →
        exec (.inboundDataByte b) s = .next (settle s))

/-- 06 R101, R104, R111, R118, R119: END, ABORT and the other control bytes. That the rows of the peer's bytes share one
classification, so that a byte acts by what it is, whichever row spells it, is the model's choice (log entry 8). In OFF, IDLE,
SENDING and FAULT a rise of LSTB is no event (R101), and the command that spells one has no effect (log entry 5). -/
def Obligations.EndAbortAndStrayBytes : Prop :=
  ∀ (b : Byte) (s : State), s.link.receive = .complete →
    let l := s.link
    let i := l.inb
    let withheld (k : ByteKind) : Link := { l with receive := .withheld k, timer := none }
    let stray : Outcome := .next (settle (raise .linkProtocol (s.withLink (ackByte .plain false l))))
    (∀ n, l.state = .receiving → i.state = .filling → i.declared = some n → 3 ≤ i.frameBytes → i.frameBytes - 3 = n →
        exec .inboundEnd s
          = .next (settle (s.withLink { withheld .endByte with inb := { i with state := .committing } })))
      ∧ (l.state = .receiving → i.state = .filling →
        (∀ n, i.declared = some n → i.frameBytes < 3 ∨ i.frameBytes - 3 ≠ n) →
        exec .inboundEnd s = .next (settle (inboundReject (s.withLink (withheld .endByte)))))
      ∧ (l.state = .receiving → i.state ≠ .filling →
        exec .inboundEnd s = .next (settle (s.withLink (withheld .endByte))))
      ∧ (l.state = .receiving → i.state = .filling ∨ i.state = .committing →
        exec .inboundAbort s = .next (settle (inboundCancel none (s.withLink (withheld .abortByte)))))
      ∧ (l.state = .receiving → i.state ≠ .filling → i.state ≠ .committing →
        exec .inboundAbort s = .next (settle (s.withLink (withheld .abortByte))))
      ∧ (l.state = .reclaiming → l.tooLate = true →
        exec .inboundEnd s = .next (settle (s.withLink (ackByte .endByte true l)))
          ∧ exec .inboundAbort s = .next (settle (s.withLink (ackByte .abortByte false l))))
      ∧ (l.state = .granted ∨ (l.state = .reclaiming ∧ l.tooLate = false) →
        exec .inboundEnd s = stray ∧ exec .inboundAbort s = stray)
      ∧ (l.state = .granted ∨ l.state = .reclaiming ∨ l.state = .receiving → b ≠ 0xB1 → b ≠ 0xBE → b ≠ 0xBA →
        exec (.strayByte true b) s = stray)
      ∧ (l.state = .off ∨ l.state = .idle ∨ l.state = .sending ∨ l.state = .fault →
        exec .linkBegin s = .next (settle s) ∧ exec .inboundEnd s = .next (settle s)
          ∧ exec .inboundAbort s = .next (settle s) ∧ exec (.strayByte true b) s = .next (settle s))
      ∧ exec (.strayByte false b) s = exec (.inboundDataByte b) s ∧ exec (.strayByte true 0xB1) s = exec .linkBegin s
      ∧ exec (.strayByte true 0xBE) s = exec .inboundEnd s ∧ exec (.strayByte true 0xBA) s = exec .inboundAbort s

/-- The frame of the peer's lines and of the link timer: everything that is not the link's, but for what the reactions
inside the event do. -/
def Obligations.LinkEventsFrame : Prop :=
  ∀ (c : Instr) (s t : State),
    (c = .lackRise ∨ c = .lackFall ∨ c = .peerAccept ∨ c = .peerReject ∨ c = .linkBegin
      ∨ (∃ b, c = .inboundDataByte b) ∨ c = .inboundEnd ∨ c = .inboundAbort ∨ (∃ k b, c = .strayByte k b)
      ∨ c = .lstbFall ∨ c = .lreqRise ∨ c = .lreqFall ∨ c = .linkTimeout ∨ c = .idleGrantExpiry) →
    exec c s = .next t →
    t.array = s.array ∧ t.pending = s.pending ∧ t.stamp = s.stamp
      ∧ t.window = { s.window with qres := t.window.qres } ∧ pushKept t.push = pushKept s.push
      ∧ popKept t.pop = popKept s.pop ∧ eventsKept t.events = eventsKept s.events ∧ seqKept t.seq = seqKept s.seq
      ∧ (∀ q, queueKept (t.queue q) = queueKept (s.queue q)) ∧ (t.modeCtl = s.modeCtl ∨ stopped s.modeCtl t.modeCtl)
      ∧ t.link.drainQ = s.link.drainQ ∧ t.link.fillQ = s.link.fillQ ∧ t.link.retryLimit = s.link.retryLimit
      ∧ t.link.quota = s.link.quota ∧ t.link.timeout = s.link.timeout
      ∧ (c ≠ .peerAccept → t.link.sent = s.link.sent) ∧ (c ≠ .peerReject → t.link.rejects = s.link.rejects)

/-! ### The array, its commands and its events (07, 08, 03) -/

/-- 07 R128: ARRAY_ON. What the array then holds is the free value of log entry 1 and is not stated here. -/
def Obligations.ArrayOnAnswers : Prop :=
  ∀ s : State,
    let answered (r : CmdResult) : Outcome := .next ((windowAccess s).withSeq { s.seq with lastCommand := r })
    (s.modeCtl.mode ≠ .config → exec .arrayOn s = answered .badMode)
      ∧ (s.modeCtl.mode = .config → s.seq.state ≠ .off → exec .arrayOn s = answered .badState)
      ∧ (s.modeCtl.mode = .config → s.seq.state = .off → ∃ t, exec .arrayOn s = .next t
        ∧ t = ((windowAccess s).withSeq { s.seq with
            state := .starting, op := some (.startCloseAll, s.seq.config.tClose), lastCommand := .ok }).withArray t.array)

/-- 07 R130, 03 R55, R58, 02 R39: ARRAY_OFF and FORMAT. That ARRAY_OFF drops a pending ALERT and the replay list, which R130
does not name, is the model's choice (log entry 39). -/
def Obligations.ArrayOffAndFormat : Prop :=
  ∀ s : State,
    let refused (r : CmdResult) : State := (windowAccess s).withSeq { s.seq with lastCommand := r }
    (s.modeCtl.mode ≠ .config → exec .arrayOff s = .next (refused .badMode)
        ∧ exec .format s = .next (settle (refused .badMode)))
      ∧ (s.modeCtl.mode = .config → ∃ t, exec .arrayOff s = .next t
        ∧ t.seq = { s.seq with
            state := .off, bankTable := List.replicate s.seq.config.banks none, op := none, slots := Slots.empty
            waitList := [], unconfirmed := [], replay := [], alertPending := false, debt := 0, timer := none
            lastCommand := .ok }
        ∧ t.pool = Pool.reset
        ∧ (∀ q, (t.queue q).state = .off ∧ (t.queue q).records = 0 ∧ (t.queue q).payload = 0
            ∧ (t.queue q).blocks = 0 ∧ (t.queue q).head = none ∧ (t.queue q).tail = none ∧ (t.queue q).pin = none
            ∧ (t.queue q).openRec = none ∧ (t.queue q).fault = none ∧ (t.queue q).claims = []
            ∧ queueKept (t.queue q) = queueKept (s.queue q) ∧ (t.queue q).nextSeq = (s.queue q).nextSeq
            ∧ (Cause.queue .queueFault q).isPending t = false)
        ∧ (Cause.global .refreshOverrun).isPending t = false
        ∧ (Cause.global .poolFault).isPending t = (Cause.global .poolFault).isPending s
        ∧ t.modeCtl = s.modeCtl ∧ t.stamp = s.stamp ∧ t.array = s.array ∧ t.pending = s.pending)
      ∧ (s.modeCtl.mode = .config → s.seq.state = .off ∨ s.seq.state = .starting ∨ s.seq.state = .fault →
        exec .format s = .next (settle (refused .badState)))
      ∧ (s.modeCtl.mode = .config → s.seq.state ≠ .off → s.seq.state ≠ .starting → s.seq.state ≠ .fault →
        ∃ e, exec .format s = .next (settle e)
          ∧ e.modeCtl = { s.modeCtl with mode := .formatting }
          ∧ e.pool = { state := .formatting, chainHead := none, chainCount := 0, cache := [], release := []
                       waitingAllocs := [], waiting := [], progress := 0 }
          ∧ e.seq = { s.seq with lastCommand := .ok } ∧ e.array = s.array ∧ e.stamp = s.stamp
          ∧ e.pending = s.pending ∧ (∀ q, queueKept (e.queue q) = queueKept (s.queue q)))

/-- 08 R143, R144, R146, R147: an ALERT by the sequencer's state, and the taking up of an ALERT. -/
def Obligations.AlertByState : Prop :=
  ∀ s : State,
    let x := s.seq
    let n := min (x.alerts + 1) 65535
    let counted : State := s.withSeq { x with alerts := n }
    let waits : State := s.withSeq { x with alerts := n, alertPending := true }
    (x.state = .off ∨ x.state = .fault → exec .alert s = .next (settle s))
      ∧ (∀ k, x.state = .starting → x.op = some (.startCloseAll, k) → exec .alert s = .next (settle counted))
      ∧ (∀ k, x.state = .starting → x.op = some (.startRefresh, k) → exec .alert s = .next (settle waits))
      ∧ (x.state = .ready → x.unconfirmed = [] → exec .alert s = .next (settle counted))
      ∧ (x.state = .ready → x.unconfirmed ≠ [] → (∀ e ∈ x.unconfirmed, e.replays ≠ 3) →
        exec .alert s = .next (settle (raise .arrayAlert (s.withSeq { x with
          alerts := n, state := .recovering, unconfirmed := [], alertPending := false
          replay := x.unconfirmed.map (fun e => { e with replays := e.replays + 1 }) ++ x.replay
          op := some (.recoveryCloseAll, x.config.tClose) }))))
      ∧ (x.state = .ready → (∃ e ∈ x.unconfirmed, e.replays = 3) →
        exec .alert s = .next (settle (arrayFault counted)))
      ∧ (x.state = .accessing ∨ x.state = .refreshing ∨ x.state = .recovering → exec .alert s = .next (settle waits))
      ∧ ((∀ e ∈ x.unconfirmed, e.replays ≠ 3) → takeUp s = raise .arrayAlert (s.withSeq { x with
          state := .recovering, unconfirmed := [], alertPending := false
          replay := x.unconfirmed.map (fun e => { e with replays := e.replays + 1 }) ++ x.replay
          op := some (.recoveryCloseAll, x.config.tClose) }))
      ∧ ((∃ e ∈ x.unconfirmed, e.replays = 3) → takeUp s = arrayFault s)

/-- 08 R147, 02 R27, 03 R54, 04 R79, 05 R96, 06 R121, 09 R149: the array fault at every block. -/
def Obligations.ArrayFaultEffect : Prop :=
  ∀ s : State,
    let t := arrayFault s
    t.seq = { s.seq with
        state := .fault, op := none, unconfirmed := [], replay := [], waitList := [], slots := Slots.empty
        timer := none, alertPending := false }
      ∧ (Cause.global .arrayFault).isPending t = true
      ∧ t.modeCtl = { s.modeCtl with mode := .halted, stop := none }
      ∧ (s.pool.state = .formatted ∨ s.pool.state = .formatting → t.pool = { s.pool with
          state := .broken, cache := [], release := [], waiting := [], waitingAllocs := [] })
      ∧ (s.pool.state = .broken ∨ s.pool.state = .unformatted → t.pool = s.pool)
      ∧ (∀ q, (s.queue q).state = .active ∨ (s.queue q).state = .held → t.queue q = { s.queue q with
          state := .faulted, fault := some .array, pin := none, openRec := none, work := .idle, wait := .none
          claims := [] })
      ∧ (∀ q, (s.queue q).state = .off ∨ (s.queue q).state = .faulted → t.queue q = s.queue q)
      ∧ (s.push.state ≠ .idle → t.push.state = .idle ∧ t.push.last = .arrayError ∧ t.push.w = Writer.reset
        ∧ t.push.armed = none ∧ t.push.remainder = none ∧ t.push.accepted = s.push.accepted)
      ∧ (s.push.state = .idle → t.push = s.push)
      ∧ (s.pop.state ≠ .idle → t.pop.state = .idle ∧ t.pop.last = .arrayError ∧ t.pop.r.buf = []
        ∧ t.pop.r.queue = none ∧ t.pop.r.unwanted = false ∧ popKept t.pop = popKept s.pop)
      ∧ (s.pop.state = .idle → t.pop = { s.pop with r := { s.pop.r with unwanted := false } })
      ∧ t.link.state = .off ∧ t.link.last = .arrayError ∧ t.link.out.state = .idle ∧ t.link.out.r.buf = []
      ∧ t.link.out.r.unwanted = false ∧ t.link.inb = Inbound.reset ∧ t.link.retryCount = 0
      ∧ t.link.retryRecord = none ∧ t.link.lines = Lines.rest ∧ t.link.timer = none
      ∧ linkKept t.link = linkKept s.link ∧ t.link.received = s.link.received
      ∧ (s.window.qres = .pending → t.window.qres = .badState) ∧ (s.window.qres ≠ .pending → t.window = s.window)
      ∧ t.stamp = s.stamp ∧ t.array = s.array ∧ t.pending = s.pending

/-- 08 R139, R142, 07 R134: the refresh timer's expiry and the confirmation of the front entry, which a pending ALERT keeps
from falling; one that cannot fall has no effect (the model's choice, log entry 5). 02 R37, 11 R171: STAMP_CLEAR, a stamp
tick, and a CMD code that R171 does not list. Then what a delivered completion does, client by client: a reader's header (05
R86, 06 R112), payload (05 R87, 06 R113), link words (01 R3, 05 R93, R95) and unwanted reads (05 R92); a writer's requests (04
R71, R72, R75) and its discard's reads (02 R35); the RETRIED flag write (06 R115); the pool's fetch, release write and format
writes (03 R44, R50, R53, R56, R57). Last, what a chain fault does at its reader and its queue (02 R26, 05 R95, 06 R113), and
what FORMAT's completion does (03 R57, 02 R39). -/
def Obligations.TimersStampAndConfirmation : Prop :=
  (∀ s : State,
      let x := s.seq
      let timer := some (x.config.interval * 16)
      (x.timer = none → exec .refreshTimerExpiry s = .next (settle s))
        ∧ (x.timer ≠ none → x.debt < 8 → ∃ t, exec .refreshTimerExpiry s = .next t
          ∧ t = settle (s.withSeq { x with timer := timer, debt := x.debt + 1 }) ∧ t.seq.debt = x.debt + 1)
        ∧ (x.timer ≠ none → x.debt = 8 → ∃ t, exec .refreshTimerExpiry s = .next t
          ∧ t = settle (raise .refreshOverrun (s.withSeq { x with timer := timer })) ∧ t.seq.debt = 8)
        ∧ (x.unconfirmed = [] ∨ x.alertPending = true → exec .confirmation s = .next (settle s))
        ∧ (∀ e rest, x.alertPending = false → x.unconfirmed = e :: rest → e.op = .refresh →
          exec .confirmation s = .next (settle (s.withSeq { x with unconfirmed := rest })))
        ∧ (∀ e rest c r, x.alertPending = false → x.unconfirmed = e :: rest → e.op = .request c r →
          exec .confirmation s = .next (settle (deliver c r.purpose e.bytes
            (s.withSeq { x with unconfirmed := rest, slots := x.slots.set c .empty })))))
    ∧ (∀ (code : Byte) (s : State),
      exec .stampClear s = .next (((windowAccess s).withStamp
          { s.stamp with counter := 0, left := s.stamp.prescale }).withSeq { s.seq with lastCommand := .ok })
        ∧ exec .stampTick s = .next (s.withStamp
          { s.stamp with counter := s.stamp.counter + 1, left := s.stamp.prescale })
        ∧ (cmdUndefined code = true → exec (.cmdUndefinedCode code) s
          = .next ((windowAccess s).withSeq { s.seq with lastCommand := .badCode })))
    -- the readers
    ∧ (∀ (k : Consumer) (bs : List Byte) (s : State),
      let x := s.reader k
      let link := classifyLink (totalBlocks s.seq.config) bs
      let fault := match k with | .pop => popChainFault s | .link => outChainFault s
      (∀ u, x.unwanted = true → deliver k.client u bs s = s.setReader k { x with unwanted := false })
        ∧ (x.unwanted = false → deliver k.client .payloadRead bs s = s.setReader k { x with buf := x.buf ++ bs })
        ∧ (∀ b, x.unwanted = false → link = .names b →
          deliver k.client .linkRead bs s = s.setReader k { x with
              fetch := some { block := b, offset := 4 }
              run := x.run.map (fun w => { w with
                prev := some ((x.fetch.map (·.block)).getD w.first), count := w.count + 1 }) }
            ∧ deliver k.client .endLinkRead bs s
              = s.setReader k { x with walk := .ready (some { block := b, offset := 4 }) })
        ∧ (x.unwanted = false → (∀ b, link ≠ .names b) →
          deliver k.client .linkRead bs s = fault ∧ deliver k.client .endLinkRead bs s = fault)
        ∧ (∀ q, x.unwanted = false → x.queue = some q →
          let h := headerOf (s.queue q) bs
          let presented := { x with
            hdr := h, remaining := h.length, unfetched := h.length
            fetch := x.header.map (fun p => { p with offset := p.offset + x.hsize }) }
          (16384 < h.length → deliver k.client .headerRead bs s = fault)
            ∧ (h.length ≤ 16384 → deliver k.client .headerRead bs s = match k with
              | .pop => s.withPop { s.pop with state := .ready, r := presented }
              | .link => s.withLink { s.link with out := { s.link.out with
                  state := .streaming, frame := some .beginByte, r := presented } })))
    -- the RETRIED flag write
    ∧ (∀ (q : QId) (bs : List Byte) (s : State), s.link.out.r.unwanted = false → s.link.out.r.queue = some q →
      let l := s.link
      let out := { l.out with r := { l.out.r with walk := .claimed } }
      let held := if (s.queue q).state = .active then s.setQueue q { s.queue q with state := .held } else s
      (l.retryCount ≤ l.retryLimit → deliver .linkr .flagWrite bs s
          = makeClaim q (.unpin .link true) (s.withLink { l with last := .rejected, out := out }))
        ∧ (l.retryLimit < l.retryCount → deliver .linkr .flagWrite bs s
          = makeClaim q (.unpin .link true)
            ((raise .linkRejectLimit (held.withEvents { s.events with rejectQueue := q })).withLink
              { l with last := .limitHold, retryCount := 0, retryRecord := none, out := out })))
    -- the writers, and the discards that read for them
    ∧ (∀ (p : Producer) (bs : List Byte) (s : State),
      let w := s.writer p
      let length := match p with | .push => s.push.accepted | .link => s.link.inb.declared.getD 0
      let link := classifyLink (totalBlocks s.seq.config) bs
      deliver p.client .reservation bs s = s ∧ deliver p.client .burst bs s = s
        ∧ deliver p.client .linkWord bs s = s.setWriter p { w with owed := none }
        ∧ (∀ q h e, phase s p = .committing → w.queue = some q → w.header = some h → w.write = some e →
          deliver p.client .patch bs s = makeClaim q (.commit p length h e) (s.setWriter p { w with claimed := true }))
        ∧ (phase s p ≠ .committing → deliver p.client .patch bs s = s)
        ∧ (∀ q d, w.queue = some q → (s.queue q).work = .discard d → d.producer = p →
          let x := s.queue q
          let h := headerOf x bs
          (16384 < h.length → deliver p.client .discardHeader bs s = faultClaim q s)
            ∧ (h.length ≤ 16384 → deliver p.client .discardHeader bs s = s.setQueue q { x with work := .discard { d with
                stage := .walk, length := h.length, unfetched := h.length
                fetch := { d.fetch with offset := d.fetch.offset + headerSize x }
                run := { first := d.fetch.block, prev := none, count := 1 } } })
            ∧ (∀ b, link = .names b →
              deliver p.client .discardLink bs s = s.setQueue q { x with work := .discard { d with
                  fetch := { block := b, offset := 4 }
                  run := { d.run with prev := some d.fetch.block, count := d.run.count + 1 } } }
                ∧ deliver p.client .discardEndLink bs s = beginWork q (.discard { d with
                  stage := .removal { length := d.length, endPos := d.fetch, next := some { block := b, offset := 4 }
                                      run := d.run } }) s)
            ∧ ((∀ b, link ≠ .names b) → deliver p.client .discardLink bs s = faultClaim q s
              ∧ deliver p.client .discardEndLink bs s = faultClaim q s)))
    -- the pool
    ∧ (∀ (bs : List Byte) (s : State),
      let x := s.pool
      let link := classifyLink (totalBlocks s.seq.config) bs
      let fetched (h : Nat) (next : Option Nat) : Prop :=
        (x.waitingAllocs = [] → deliver .pool .fetch bs s = s.withPool { x with
            cache := { block := h, promised := none } :: x.cache, chainHead := next, chainCount := x.chainCount - 1 })
          ∧ (∀ p more, x.waitingAllocs = p :: more →
            deliver .pool .fetch bs s = setStage p (.granted h) (s.withPool { x with
              cache := { block := h, promised := some p } :: x.cache, chainHead := next
              chainCount := x.chainCount - 1, waitingAllocs := more }))
      let broken : State := raise .poolFault (failAllocs (s.withPool { x with
        state := .broken, release := [], cache := x.cache.filter (fun c => c.promised.isSome) }))
      (∀ h b, x.state = .formatted → x.chainHead = some h → 1 < x.chainCount → link = .names b → fetched h (some b))
        ∧ (∀ h, x.state = .formatted → x.chainHead = some h → x.chainCount = 1 → link = .none → fetched h none)
        ∧ (x.state = .formatted → link = .chainFault → deliver .pool .fetch bs s = broken)
        ∧ (∀ b, x.state = .formatted → x.chainCount = 1 → link = .names b → deliver .pool .fetch bs s = broken)
        ∧ (x.state = .formatted → 1 < x.chainCount → link = .none → deliver .pool .fetch bs s = broken)
        ∧ (∀ g more, x.state = .formatted → x.release = g :: more →
          deliver .pool .releaseWrite bs s = s.withPool { x with
            chainHead := some g.first, chainCount := x.chainCount + g.count, release := more })
        ∧ (x.state = .formatting → x.progress + 1 ≠ totalBlocks s.seq.config →
          deliver .pool .formatWrite bs s = s.withPool { x with progress := x.progress + 1 })
        ∧ (x.state = .formatting → x.progress + 1 = totalBlocks s.seq.config →
          deliver .pool .formatWrite bs s = formatCompleted (s.withPool { x with progress := x.progress + 1 }))
        ∧ (x.state ≠ .formatted → deliver .pool .fetch bs s = s ∧ deliver .pool .releaseWrite bs s = s)
        ∧ (x.state ≠ .formatting → deliver .pool .formatWrite bs s = s))
    -- chain faults, and FORMAT's completion
    ∧ (∀ (q : QId) (s : State),
      let x := s.queue q
      let faulted (t : State) : Prop :=
        t.queue q = { x with state := .faulted, fault := some .chain, pin := none, openRec := none, work := .idle
                             wait := .none, claims := [] }
          ∧ (Cause.queue .queueFault q).isPending t = true
      (x.state = .off ∨ x.state = .faulted → faultClaim q s = s)
        ∧ (x.state = .active ∨ x.state = .held →
          faulted (faultClaim q s)
            ∧ (∀ p, x.openRec = some p →
              phase (faultClaim q s) p = .cancelling ∧ ((faultClaim q s).writer p).dropped = true)
            ∧ (s.pop.r.queue = some q →
              let t := popChainFault s
              faulted t ∧ t.pop.state = .idle ∧ t.pop.last = .chainFault ∧ t.pop.r.queue = none ∧ t.pop.r.buf = []
                ∧ t.pop.r.hdr = s.pop.r.hdr ∧ t.pop.r.remaining = s.pop.r.remaining)
            ∧ (s.link.out.r.queue = some q →
              let t := outChainFault s
              faulted t ∧ t.link.out.state = .idle ∧ t.link.last = .chainFault ∧ t.link.retryCount = 0
                ∧ t.link.retryRecord = none
                ∧ t.link.abortDue = decide (s.link.out.state = .streaming ∧ s.link.state = .sending))))
    ∧ (∀ (s : State) (q : QId),
      let t := formatCompleted s
      let x := s.queue q
      t.pool = { s.pool with state := .formatted, chainHead := some 0, chainCount := totalBlocks s.seq.config }
        ∧ t.queue q = { x with state := .off, records := 0, payload := 0, blocks := 0, head := none, tail := none
                               pin := none, openRec := none, fault := none, tailBlock := none, joined := none
                               second := none, work := .idle, wait := .none, claims := [] }
        ∧ t.modeCtl.mode = .config ∧ t.modeCtl.stop = none ∧ (Cause.global .formatDone).isPending t = true
        ∧ (Cause.global .poolFault).isPending t = false ∧ (Cause.global .refreshOverrun).isPending t = false
        ∧ (Cause.queue .queueFault q).isPending t = false
        ∧ (Cause.queue .nonempty q).isPending t = (Cause.queue .nonempty q).isPending s)

/-- 07 R138, R137, 08 R141, R143: the completion of an access: the bytes it moves, its entry, the bank table, a pending
ALERT. Two clauses are the model's choice: the array's reply is an operand (log entry 2), and an access to a block that the
array does not have faults (log entry 18). -/
def Obligations.AccessCompletes : Prop :=
  ∀ (s : State) (c : Client) (r : Request) (k : Nat) (reply : ArrayReply),
    s.seq.op = some (.access c, k) → s.slot c = .issued r →
    let x := s.seq
    let a := r.block * 256 + r.offset
    let read := replyBytes (arrayBytes s.array a r.length) reply
    let entry (bytes : List Byte) : Entry :=
      { op := .request c r, bytes := bytes, replays := 0, window := x.config.window }
    let joined (bytes : List Byte) : Seq := { x with
      unconfirmed := x.unconfirmed ++ [entry bytes], slots := x.slots.set c (.unconfirmed r), state := .ready
      op := none, bankTable := x.bankTable.set (r.block / 8 % x.config.banks) (some (r.block / (8 * x.config.banks))) }
    let answer (e : State) : Outcome := .next (settle (if x.alertPending then takeUp e else e))
    (totalBlocks x.config ≤ r.block → exec (.accessCompletion reply) s = .fault .noSuchBlock)
      ∧ (r.block < totalBlocks x.config → r.kind = .read →
        exec (.accessCompletion reply) s = answer (s.withSeq (joined read)))
      ∧ (r.block < totalBlocks x.config → r.kind = .write →
        exec (.accessCompletion reply) s = answer ((s.withArray
          { s.array with cells := arrayPut s.array.cells a (replyBytes r.data reply) }).withSeq (joined [])))

/-- 07 R137: an access or a re-issue changes no byte of the array outside the bytes of its write, a read changes none; the
bytes of a write read back as written. The model's choice: the bytes moved follow the reply operand (log entry 2), and a
completion whose operation is not in progress has no effect (log entry 5). -/
def Obligations.AccessesChangeWrittenBytesAlone : Prop :=
  (∀ (m : ArrayMem) (r : Request) (bytes : List Byte) (a : Nat),
      (r.kind = .read ∨ a < r.block * 256 + r.offset ∨ r.block * 256 + r.offset + bytes.length ≤ a →
        arrayByteAt (storeAccess m r bytes) a = arrayByteAt m a)
        ∧ (∀ i (h : i < bytes.length), r.kind = .write →
          arrayByteAt (storeAccess m r bytes) (r.block * 256 + r.offset + i) = bytes[i]))
    ∧ (∀ (s t : State) (c : Client) (r : Request) (reply : ArrayReply), accessInProgress s.seq = some (c, r) →
      exec (.accessCompletion reply) s = .next t → t.array = storeAccess s.array r (movedBytes s.array r reply))
    ∧ (∀ (s t : State) (c : Client) (r : Request) (e : Entry) (reply : ArrayReply),
      reissueInProgress s.seq = some e → e.op = .request c r →
      exec (.reissueCompletion reply) s = .next t → t.array = storeAccess s.array r (movedBytes s.array r reply))
    ∧ ∀ (s : State) (reply : ArrayReply),
      (accessInProgress s.seq = none → exec (.accessCompletion reply) s = .next s)
        ∧ (reissueInProgress s.seq = none → exec (.reissueCompletion reply) s = .next s)

/-- 07 R129, 08 R139, R140, R143: the completions of a refresh, of the starting close-all and of the start refresh. The
last three clauses are the model's choice (log entry 5): a completion whose operation is not in progress has no effect. -/
def Obligations.RefreshAndStartComplete : Prop :=
  ∀ (s : State) (k : Nat),
    let x := s.seq
    let closed := List.replicate x.config.banks (none : Option Nat)
    let entry : Entry := { op := .refresh, bytes := [], replays := 0, window := x.config.window }
    let answer (e : State) : Outcome := .next (settle (if x.alertPending then takeUp e else e))
    (x.op = some (.refresh, k) → exec .refreshCompletion s = answer (s.withSeq { x with
        debt := x.debt - 1, unconfirmed := x.unconfirmed ++ [entry], op := none, state := .ready }))
      ∧ (x.op = some (.startCloseAll, k) → exec .startCloseAllDone s = .next (s.withSeq { x with
        bankTable := closed, op := some (.startRefresh, refreshClocks { x with bankTable := closed }) }))
      ∧ (x.op = some (.startRefresh, k) → exec .startRefreshDone s = answer (s.withSeq { x with
        timer := some (x.config.interval * 16), unconfirmed := x.unconfirmed ++ [entry], op := none, state := .ready }))
      ∧ ((∀ j, x.op ≠ some (.refresh, j)) → exec .refreshCompletion s = .next (settle s))
      ∧ ((∀ j, x.op ≠ some (.startCloseAll, j)) → exec .startCloseAllDone s = .next s)
      ∧ ((∀ j, x.op ≠ some (.startRefresh, j)) → exec .startRefreshDone s = .next (settle s))

/-- 08 R145, R146, R147: the completions of recovery's close-all and of a re-issue. With no ALERT pending the next entry is
re-issued, or recovery ends with the sequencer READY; a pending ALERT is taken up: a new replay list and close-all, or the
array fault. Three clauses are the model's choice: the array's reply is an operand (log entry 2), a completion whose operation
is not in progress has no effect (log entry 5), and a re-issue at a block that the array does not have faults (log entry
18). -/
def Obligations.RecoveryCompletes : Prop :=
  ∀ (s : State) (k : Nat) (e : Entry) (reply : ArrayReply),
    let x := s.seq
    let closed := List.replicate x.config.banks (none : Option Nat)
    let struck (l : List Entry) : List Entry := l.map (fun f => { f with replays := f.replays + 1 })
    let onward (y : Seq) : Seq :=
      match y.replay with
      | [] => { y with state := .ready, op := none }
      | f :: rest =>
        match f.op with
        | .request c r =>
          { y with replay := rest, slots := y.slots.set c (.issued r), op := some (.reissue f, accessClocks y r) }
        | .refresh => { y with replay := rest, bankTable := closed, op := some (.reissue f, refreshClocks y) }
    let completes (c : Instr) (u : State) : Prop :=
      (x.alertPending = false → exec c s = .next (settle (u.withSeq (onward u.seq))))
        ∧ (x.alertPending = true → (∀ f ∈ u.seq.unconfirmed, f.replays ≠ 3) →
          exec c s = .next (settle (raise .arrayAlert (u.withSeq { u.seq with
            state := .recovering, replay := struck u.seq.unconfirmed ++ x.replay, unconfirmed := []
            alertPending := false, op := some (.recoveryCloseAll, x.config.tClose) }))))
        ∧ (x.alertPending = true → (∃ f ∈ u.seq.unconfirmed, f.replays = 3) →
          exec c s = .next (settle (arrayFault u)))
    (x.op = some (.recoveryCloseAll, k) →
        completes .recoveryCloseAllDone (s.withSeq { x with bankTable := closed, op := none }))
      ∧ (x.op = some (.reissue e, k) → e.op = .refresh → completes (.reissueCompletion reply) (s.withSeq { x with
        unconfirmed := x.unconfirmed ++ [{ e with window := x.config.window }], op := none }))
      ∧ (∀ c r, x.op = some (.reissue e, k) → e.op = .request c r → r.block < totalBlocks x.config →
        let bytes := replyBytes (match r.kind with
          | .read => arrayBytes s.array (r.block * 256 + r.offset) r.length
          | .write => r.data) reply
        completes (.reissueCompletion reply) ((s.withArray (storeAccess s.array r bytes)).withSeq { x with
          unconfirmed := x.unconfirmed ++
            [{ e with bytes := (match r.kind with | .read => bytes | .write => []), window := x.config.window }]
          op := none, slots := x.slots.set c (.unconfirmed r)
          bankTable := x.bankTable.set (r.block / 8 % x.config.banks) (some (r.block / (8 * x.config.banks))) }))
      ∧ (∀ c r, x.op = some (.reissue e, k) → e.op = .request c r → totalBlocks x.config ≤ r.block →
        exec (.reissueCompletion reply) s = .fault .noSuchBlock)
      ∧ ((∀ j, x.op ≠ some (.recoveryCloseAll, j)) → exec .recoveryCloseAllDone s = .next (settle s))
      ∧ ((∀ f j, x.op ≠ some (.reissue f, j)) → exec (.reissueCompletion reply) s = .next s)

/-- 07 R135: the choice, by the first case that applies. -/
def Obligations.ChoiceFollowsFiveCases : Prop :=
  ∀ x : Seq,
    let holds (p : Request → Prop) (c : Client) : Prop := ∃ r, waitingOf x c = some r ∧ p r
    let earliest (p : Request → Prop) (c : Client) : Prop :=
      ∃ before after, x.waitList = before ++ c :: after ∧ holds p c ∧ ∀ d ∈ before, ¬holds p d
    let some_ (p : Request → Prop) : Prop := ∃ d ∈ x.waitList, holds p d
    let hit (r : Request) : Prop := isHit x r = true
    (x.config.urgency ≤ x.debt → choice x = some .refresh)
      ∧ (x.debt < x.config.urgency → ∀ c, earliest (fun r => r.passed = 4) c → choice x = some (.request c))
      ∧ (x.debt < x.config.urgency → ¬some_ (fun r => r.passed = 4) → ∀ c, earliest hit c →
        choice x = some (.request c))
      ∧ (x.debt < x.config.urgency → ¬some_ (fun r => r.passed = 4) → ¬some_ hit → ∀ c, earliest (fun _ => True) c →
        choice x = some (.request c))
      ∧ (x.debt < x.config.urgency → ¬some_ (fun _ => True) → choice x = if 1 ≤ x.debt then some .refresh else none)

/-- 07 R136: the passed-over counts at a choice of a request and at a choice of refresh. -/
def Obligations.PassedOverCounts : Prop :=
  ∀ (x : Seq) (c : Client) (r : Request), waitingOf x c = some r →
    (beginAccess c r x).slots.get c = .issued { r with passed := 0 }
      ∧ (∀ d, d ≠ c → (beginAccess c r x).slots.get d = match x.slots.get d with
          | .waiting u => .waiting { u with passed := min 4 (u.passed + 1) }
          | u => u)
      ∧ (beginRefresh x).slots = x.slots

/-! ### The register window (11) -/

/-- 11 R167 and Table 11-2: the two view marks, at every access to the window, and the layout of the status bytes. -/
def Obligations.ViewMarksAndStatusBytes : Prop :=
  (∀ (c : Instr) (s t : State), isAccess c = true → exec c s = .next t →
      (readsPstat c = false → t.window.pushView = .status)
        ∧ (readsLstat c = false → t.window.linkView = .status))
    ∧ (∀ s : State,
      (∃ t, exec .pstatRead s = .next t ∧ t = s.withWindow { s.window with
        linkView := .status
        pushView := (match s.window.pushView with | .status => .result | .result => .status)
        dataOut := some (match s.window.pushView with | .status => pstatStatus s.push | .result => pstatResult s.push) })
      ∧ ∃ t, exec .lstatRead s = .next t ∧ t = s.withWindow { s.window with
        pushView := .status
        linkView := (match s.window.linkView with | .status => .result | .result => .status)
        dataOut := some (match s.window.linkView with | .status => lstatStatus s.link | .result => lstatResult s.link) })
    ∧ ∀ s : State,
      let p := s.push
      let o := s.pop
      let l := s.link
      let m := s.modeCtl
      (pstatStatus p).toNat = p.state.code
          + 8 * flagBit (decide (p.remainder ≠ none ∨ 64 ≤ p.w.buf.length))
          + 16 * flagBit (decide (p.remainder = none ∧ p.w.buf = [])) + 32 * flagBit (decide (p.armed ≠ none))
          + 64 * flagBit p.lost
        ∧ (pstatResult p).toNat = p.last.code
        ∧ (ostat o).toNat = o.state.code + 4 * flagBit (decide (o.r.buf ≠ []))
          + 8 * flagBit (decide (o.state = .ready ∧ o.r.remaining = 0)) + 16 * o.last.code
        ∧ (lstatStatus l).toNat = l.state.code + 8 * flagBit (decide (l.turn = .reverse)) + 16 * flagBit l.lreq
          + 32 * flagBit l.lines.lgnt + 64 * flagBit (decide (l.out.state ≠ .idle))
          + 128 * flagBit (decide (l.inb.state ≠ .idle))
        ∧ (lstatResult l).toNat = l.last.code
        ∧ (modeByte m).toNat = m.mode.code + 8 * stopCode m.stop + 32 * m.last.code
        ∧ (gstat s).toNat = s.seq.state.code + 8 * s.pool.state.code + 32 * s.seq.lastCommand.code

/-- 11 R166, R168 and Table 11-1: the registers without a row of their own. The second part is the model's choice (log entry
7): a row for undefined codes, or for other registers, whose operand names a code or a register of another row is that
register access. -/
def Obligations.OtherRegistersAndRows : Prop :=
  (∀ (v : Byte) (s : State),
      let w := (windowAccess s).window
      let h := s.pop.r.hdr
      let stored (o : Fin 32) (x : Window) : Prop :=
        exec (.registerWriteOther o v) s = .next ((windowAccess s).withWindow x)
      let reads (o : Fin 32) (b : Byte) : Prop := exec (.registerReadOther o) s = .next (drive b (windowAccess s))
      stored 0x0D { w with qsel := v } ∧ stored 0x0E { w with qfld := v } ∧ stored 0x0F { w with qv0 := v }
        ∧ stored 0x10 { w with qv1 := v } ∧ stored 0x11 { w with qv2 := v } ∧ stored 0x1F { w with scratch := v }
        ∧ (∀ o : Fin 32, (0x03 ≤ o.val ∧ o.val ≤ 0x0C) ∨ o = 0x14 ∨ o = 0x15 ∨ (0x1A ≤ o.val ∧ o.val ≤ 0x1E) →
          exec (.registerWriteOther o v) s = .next (windowAccess s))
        ∧ reads 0x02 (ostat s.pop) ∧ reads 0x03 (BitVec.ofNat 8 (h.length / 256)) ∧ reads 0x04 (BitVec.ofNat 8 h.length)
        ∧ reads 0x05 h.tag ∧ reads 0x06 h.flags ∧ reads 0x07 (h.stamp.extractLsb' 24 8)
        ∧ reads 0x08 (h.stamp.extractLsb' 16 8) ∧ reads 0x09 (h.stamp.extractLsb' 8 8)
        ∧ reads 0x0A (h.stamp.extractLsb' 0 8) ∧ reads 0x0B (h.seq.extractLsb' 8 8) ∧ reads 0x0C (h.seq.extractLsb' 0 8)
        ∧ reads 0x0D s.window.qsel ∧ reads 0x0E s.window.qfld ∧ reads 0x0F s.window.qv0 ∧ reads 0x10 s.window.qv1
        ∧ reads 0x11 s.window.qv2 ∧ reads 0x12 (BitVec.ofNat 8 s.window.qres.code) ∧ reads 0x13 (modeByte s.modeCtl)
        ∧ reads 0x16 s.events.even ∧ reads 0x17 0 ∧ reads 0x19 (gstat s)
        ∧ reads 0x1A (BitVec.ofNat 8 (s.push.accepted / 256)) ∧ reads 0x1B (BitVec.ofNat 8 s.push.accepted)
        ∧ reads 0x1C (BitVec.ofNat 8 (s.pop.r.remaining / 256)) ∧ reads 0x1D (BitVec.ofNat 8 s.pop.r.remaining)
        ∧ reads 0x1E 0x5B ∧ reads 0x1F s.window.scratch)
    ∧ (∀ (code : Byte) (s : State),
      (pctlUndefined code = true → exec (.pctlUndefinedCode code) s = .next (raise .pushProtocol (windowAccess s)))
        ∧ (∀ q : QId, code.toNat = 0x60 + q.val → exec (.pctlUndefinedCode code) s = exec (.pctlOpen q) s
          ∧ exec (.registerWriteOther 0x01 code) s = exec (.pctlOpen q) s)
        ∧ (∀ q : QId, code.toNat = 0x20 + q.val → exec (.octlUndefinedCode code) s = exec (.octlSelect q) s
          ∧ exec (.registerWriteOther 0x02 code) s = exec (.octlSelect q) s)
        ∧ exec (.pctlUndefinedCode 0x40) s = exec .pctlEnd s ∧ exec (.pctlUndefinedCode 0x41) s = exec .pctlCancel s
        ∧ (∀ n : Fin 64, exec (.pctlUndefinedCode (BitVec.ofNat 8 n.val)) s
          = .next (settle (pushRepeat n.val (windowAccess s))))
        ∧ exec (.octlUndefinedCode 0x01) s = exec .octlRelease s ∧ exec (.octlUndefinedCode 0x02) s = exec .octlReturn s
        ∧ exec (.octlUndefinedCode 0x03) s = exec .octlRewind s
        ∧ exec (.qcmdUndefinedCode 0x03) s = exec .qcmdEnable s ∧ exec (.qcmdUndefinedCode 0x05) s = exec .qcmdHold s
        ∧ exec (.qcmdUndefinedCode 0x06) s = exec .qcmdResume s ∧ exec (.qcmdUndefinedCode 0x07) s = exec .qcmdFlush s
        ∧ exec (.modeUndefinedCode 0x02) s = exec .modeStop s ∧ exec (.modeUndefinedCode 0x03) s = exec .modeAbort s
        ∧ exec (.lcmdUndefinedCode 0x01) s = exec .lcmdStart s ∧ exec (.lcmdUndefinedCode 0x02) s = exec .lcmdStop s
        ∧ exec (.cmdUndefinedCode 0x03) s = exec .format s
        ∧ exec (.registerWriteOther 0x00 code) s = exec (.dataWrite code) s
        ∧ exec (.registerReadOther 0x00) s = exec .dataRead s ∧ exec (.registerReadOther 0x01) s = exec .pstatRead s
        ∧ exec (.registerReadOther 0x14) s = exec .evidRead s ∧ exec (.registerReadOther 0x15) s = exec .evqRead s
        ∧ exec (.registerReadOther 0x18) s = exec .lstatRead s)

/-! ### The stored form (01) and the pool (03) -/

/-- 01 R2, R3, R5, Table 1-1: how a link word is classified; a link word and a header as written read back, absent header
fields as 0, and a header takes H bytes. -/
def Obligations.StoredFormReadsBack : Prop :=
  (∀ (total : Nat) (a b c d : Byte), total ≤ 0x100000 →
      let n := a.toNat * 65536 + b.toNat * 256 + c.toNat
      (d ≠ ~~~(a ^^^ b ^^^ c) → classifyLink total [a, b, c, d] = .chainFault)
        ∧ (d = ~~~(a ^^^ b ^^^ c) → n < total → classifyLink total [a, b, c, d] = .names n)
        ∧ (d = ~~~(a ^^^ b ^^^ c) → total ≤ n → n ≠ 0xFFFFFF → classifyLink total [a, b, c, d] = .chainFault)
        ∧ (d = ~~~(a ^^^ b ^^^ c) → n = 0xFFFFFF → classifyLink total [a, b, c, d] = .none)
        ∧ (∀ m, m < total → classifyLink total (linkWord (some m)) = .names m)
        ∧ classifyLink total (linkWord none) = .none)
    ∧ (∀ (q : Queue) (h : Header), h.length ≤ 16384 →
      headerOf q (headerBytes q h)
          = { h with stamp := if q.stamp then h.stamp else 0, seq := if q.number then h.seq else 0 }
        ∧ (headerBytes q h).length = 4 + (if q.stamp then 4 else 0) + (if q.number then 2 else 0))

/-- 07 R126, 01 R1: where a block lies; two bytes of the array never share a place. -/
def Obligations.BlocksLieApart : Prop :=
  ∀ (c : ArrayConfig) (b f b' f' : Nat), 0 < c.banks → b < totalBlocks c → f < 256 → f' < 256 →
    bankOf c b < c.banks ∧ rowOf c b < c.rows ∧ rowByteOf b f < 2048
      ∧ (bankOf c b = bankOf c b' → rowOf c b = rowOf c b' → rowByteOf b f = rowByteOf b' f' → b = b' ∧ f = f')

/-- 03 R41: each movement of a block between the chain, the cache, the release list and a queue keeps the count. -/
def Obligations.PoolMovementsKeepTheCount : Prop :=
  ∀ (s : State), s.pool.state = .formatted →
    (∀ bs h next, s.pool.chainHead = some h →
        fetchSound s.pool.chainCount (classifyLink (totalBlocks s.seq.config) bs) = some next →
        poolBlocks (fetchConfirmed bs s).pool = poolBlocks s.pool
          ∧ (fetchConfirmed bs s).pool.chainCount = s.pool.chainCount - 1)
      ∧ (s.pool.release ≠ [] → poolBlocks (releaseConfirmed s).pool = poolBlocks s.pool)
      ∧ (∀ g, poolBlocks (poolPut g s).pool = poolBlocks s.pool + g.count)
      ∧ (∀ b, (s.pool.cache.filter (fun x => x.block == b)).length = 1 →
        poolBlocks (cacheLeft b s).pool + 1 = poolBlocks s.pool)
      ∧ (∀ b q, (joinedBlock b (s.queue q)).blocks = (s.queue q).blocks + 1)

/-! ### What holds over every step -/

/-- No command touches the queue of waiting commands, and the array changes only at the completion of an access or a
re-issue and where its contents become unknown. -/
def Obligations.QueueAndArrayChangeOnlyAsNamed : Prop :=
  ∀ (c : Instr) (s t : State), exec c s = .next t →
    t.pending = s.pending
      ∧ (t.array = s.array ∨ t.array.cells = [] ∨ (∃ r, c = .accessCompletion r) ∨ ∃ r, c = .reissueCompletion r)

/-- The list of the array's known bytes keeps its canonical form. -/
def Obligations.MemoryStaysCanonical : Prop :=
  ∀ s t : State, Memory.wf s.array.cells = true → step s = .next t → Memory.wf t.array.cells = true

/-- 07 R127, 08 R139, R141, R144 to R146: the sequencer stays legal: its state names its operation, the debt is at most
8, at most 4 operations are unconfirmed, replayed or under way, and none has been replayed more than 3 times. -/
def Obligations.SequencerStaysLegal : Prop :=
  ∀ s t : State, SeqLegal s.seq → step s = .next t → SeqLegal t.seq

/-- 02 R15, R18, 04 R59: every descriptor and the push context stay in range. 09 R149, 10 R164: a stop is in progress only in
STOPPING, and bits 6 and 5 of EVEN stay 0. -/
def Obligations.CountsModeAndEnablesStayLegal : Prop :=
  (∀ s t : State, InRange s → step s = .next t → InRange t)
    ∧ (∀ s t : State, stopLegal s.modeCtl → evenLegal s.events → step s = .next t →
      stopLegal t.modeCtl ∧ evenLegal t.events)

/-- The state after reset meets every invariant above. -/
def Obligations.ResetMeetsInvariants : Prop :=
  Memory.wf State.reset.array.cells = true ∧ SeqLegal State.reset.seq ∧ InRange State.reset
    ∧ stopLegal State.reset.modeCtl ∧ evenLegal State.reset.events
end

