-- ==== Sys2Proof/Laws/State.lean ====
section
/-! SUPPORT. One lemma per field of State per update: the field written is the new one, the others stand. -/

namespace Sys2Proof.Machine

@[simp] theorem withWindow_window (s : State) (x : Window) : (s.withWindow x).window = x := rfl
@[simp] theorem withWindow_events (s : State) (x : Window) : (s.withWindow x).events = s.events := rfl
@[simp] theorem withWindow_modeCtl (s : State) (x : Window) : (s.withWindow x).modeCtl = s.modeCtl := rfl
@[simp] theorem withWindow_stamp (s : State) (x : Window) : (s.withWindow x).stamp = s.stamp := rfl
@[simp] theorem withWindow_queues (s : State) (x : Window) : (s.withWindow x).queues = s.queues := rfl
@[simp] theorem withWindow_pool (s : State) (x : Window) : (s.withWindow x).pool = s.pool := rfl
@[simp] theorem withWindow_push (s : State) (x : Window) : (s.withWindow x).push = s.push := rfl
@[simp] theorem withWindow_pop (s : State) (x : Window) : (s.withWindow x).pop = s.pop := rfl
@[simp] theorem withWindow_link (s : State) (x : Window) : (s.withWindow x).link = s.link := rfl
@[simp] theorem withWindow_seq (s : State) (x : Window) : (s.withWindow x).seq = s.seq := rfl
@[simp] theorem withWindow_array (s : State) (x : Window) : (s.withWindow x).array = s.array := rfl
@[simp] theorem withWindow_pending (s : State) (x : Window) : (s.withWindow x).pending = s.pending := rfl

@[simp] theorem withEvents_window (s : State) (x : Events) : (s.withEvents x).window = s.window := rfl
@[simp] theorem withEvents_events (s : State) (x : Events) : (s.withEvents x).events = x := rfl
@[simp] theorem withEvents_modeCtl (s : State) (x : Events) : (s.withEvents x).modeCtl = s.modeCtl := rfl
@[simp] theorem withEvents_stamp (s : State) (x : Events) : (s.withEvents x).stamp = s.stamp := rfl
@[simp] theorem withEvents_queues (s : State) (x : Events) : (s.withEvents x).queues = s.queues := rfl
@[simp] theorem withEvents_pool (s : State) (x : Events) : (s.withEvents x).pool = s.pool := rfl
@[simp] theorem withEvents_push (s : State) (x : Events) : (s.withEvents x).push = s.push := rfl
@[simp] theorem withEvents_pop (s : State) (x : Events) : (s.withEvents x).pop = s.pop := rfl
@[simp] theorem withEvents_link (s : State) (x : Events) : (s.withEvents x).link = s.link := rfl
@[simp] theorem withEvents_seq (s : State) (x : Events) : (s.withEvents x).seq = s.seq := rfl
@[simp] theorem withEvents_array (s : State) (x : Events) : (s.withEvents x).array = s.array := rfl
@[simp] theorem withEvents_pending (s : State) (x : Events) : (s.withEvents x).pending = s.pending := rfl

@[simp] theorem withModeCtl_window (s : State) (x : ModeCtl) : (s.withModeCtl x).window = s.window := rfl
@[simp] theorem withModeCtl_events (s : State) (x : ModeCtl) : (s.withModeCtl x).events = s.events := rfl
@[simp] theorem withModeCtl_modeCtl (s : State) (x : ModeCtl) : (s.withModeCtl x).modeCtl = x := rfl
@[simp] theorem withModeCtl_stamp (s : State) (x : ModeCtl) : (s.withModeCtl x).stamp = s.stamp := rfl
@[simp] theorem withModeCtl_queues (s : State) (x : ModeCtl) : (s.withModeCtl x).queues = s.queues := rfl
@[simp] theorem withModeCtl_pool (s : State) (x : ModeCtl) : (s.withModeCtl x).pool = s.pool := rfl
@[simp] theorem withModeCtl_push (s : State) (x : ModeCtl) : (s.withModeCtl x).push = s.push := rfl
@[simp] theorem withModeCtl_pop (s : State) (x : ModeCtl) : (s.withModeCtl x).pop = s.pop := rfl
@[simp] theorem withModeCtl_link (s : State) (x : ModeCtl) : (s.withModeCtl x).link = s.link := rfl
@[simp] theorem withModeCtl_seq (s : State) (x : ModeCtl) : (s.withModeCtl x).seq = s.seq := rfl
@[simp] theorem withModeCtl_array (s : State) (x : ModeCtl) : (s.withModeCtl x).array = s.array := rfl
@[simp] theorem withModeCtl_pending (s : State) (x : ModeCtl) : (s.withModeCtl x).pending = s.pending := rfl

@[simp] theorem withStamp_window (s : State) (x : Stamp) : (s.withStamp x).window = s.window := rfl
@[simp] theorem withStamp_events (s : State) (x : Stamp) : (s.withStamp x).events = s.events := rfl
@[simp] theorem withStamp_modeCtl (s : State) (x : Stamp) : (s.withStamp x).modeCtl = s.modeCtl := rfl
@[simp] theorem withStamp_stamp (s : State) (x : Stamp) : (s.withStamp x).stamp = x := rfl
@[simp] theorem withStamp_queues (s : State) (x : Stamp) : (s.withStamp x).queues = s.queues := rfl
@[simp] theorem withStamp_pool (s : State) (x : Stamp) : (s.withStamp x).pool = s.pool := rfl
@[simp] theorem withStamp_push (s : State) (x : Stamp) : (s.withStamp x).push = s.push := rfl
@[simp] theorem withStamp_pop (s : State) (x : Stamp) : (s.withStamp x).pop = s.pop := rfl
@[simp] theorem withStamp_link (s : State) (x : Stamp) : (s.withStamp x).link = s.link := rfl
@[simp] theorem withStamp_seq (s : State) (x : Stamp) : (s.withStamp x).seq = s.seq := rfl
@[simp] theorem withStamp_array (s : State) (x : Stamp) : (s.withStamp x).array = s.array := rfl
@[simp] theorem withStamp_pending (s : State) (x : Stamp) : (s.withStamp x).pending = s.pending := rfl

@[simp] theorem withQueues_window (s : State) (x : Vector Queue 24) : (s.withQueues x).window = s.window := rfl
@[simp] theorem withQueues_events (s : State) (x : Vector Queue 24) : (s.withQueues x).events = s.events := rfl
@[simp] theorem withQueues_modeCtl (s : State) (x : Vector Queue 24) : (s.withQueues x).modeCtl = s.modeCtl := rfl
@[simp] theorem withQueues_stamp (s : State) (x : Vector Queue 24) : (s.withQueues x).stamp = s.stamp := rfl
@[simp] theorem withQueues_queues (s : State) (x : Vector Queue 24) : (s.withQueues x).queues = x := rfl
@[simp] theorem withQueues_pool (s : State) (x : Vector Queue 24) : (s.withQueues x).pool = s.pool := rfl
@[simp] theorem withQueues_push (s : State) (x : Vector Queue 24) : (s.withQueues x).push = s.push := rfl
@[simp] theorem withQueues_pop (s : State) (x : Vector Queue 24) : (s.withQueues x).pop = s.pop := rfl
@[simp] theorem withQueues_link (s : State) (x : Vector Queue 24) : (s.withQueues x).link = s.link := rfl
@[simp] theorem withQueues_seq (s : State) (x : Vector Queue 24) : (s.withQueues x).seq = s.seq := rfl
@[simp] theorem withQueues_array (s : State) (x : Vector Queue 24) : (s.withQueues x).array = s.array := rfl
@[simp] theorem withQueues_pending (s : State) (x : Vector Queue 24) : (s.withQueues x).pending = s.pending := rfl

@[simp] theorem withPool_window (s : State) (x : Pool) : (s.withPool x).window = s.window := rfl
@[simp] theorem withPool_events (s : State) (x : Pool) : (s.withPool x).events = s.events := rfl
@[simp] theorem withPool_modeCtl (s : State) (x : Pool) : (s.withPool x).modeCtl = s.modeCtl := rfl
@[simp] theorem withPool_stamp (s : State) (x : Pool) : (s.withPool x).stamp = s.stamp := rfl
@[simp] theorem withPool_queues (s : State) (x : Pool) : (s.withPool x).queues = s.queues := rfl
@[simp] theorem withPool_pool (s : State) (x : Pool) : (s.withPool x).pool = x := rfl
@[simp] theorem withPool_push (s : State) (x : Pool) : (s.withPool x).push = s.push := rfl
@[simp] theorem withPool_pop (s : State) (x : Pool) : (s.withPool x).pop = s.pop := rfl
@[simp] theorem withPool_link (s : State) (x : Pool) : (s.withPool x).link = s.link := rfl
@[simp] theorem withPool_seq (s : State) (x : Pool) : (s.withPool x).seq = s.seq := rfl
@[simp] theorem withPool_array (s : State) (x : Pool) : (s.withPool x).array = s.array := rfl
@[simp] theorem withPool_pending (s : State) (x : Pool) : (s.withPool x).pending = s.pending := rfl

@[simp] theorem withPush_window (s : State) (x : Push) : (s.withPush x).window = s.window := rfl
@[simp] theorem withPush_events (s : State) (x : Push) : (s.withPush x).events = s.events := rfl
@[simp] theorem withPush_modeCtl (s : State) (x : Push) : (s.withPush x).modeCtl = s.modeCtl := rfl
@[simp] theorem withPush_stamp (s : State) (x : Push) : (s.withPush x).stamp = s.stamp := rfl
@[simp] theorem withPush_queues (s : State) (x : Push) : (s.withPush x).queues = s.queues := rfl
@[simp] theorem withPush_pool (s : State) (x : Push) : (s.withPush x).pool = s.pool := rfl
@[simp] theorem withPush_push (s : State) (x : Push) : (s.withPush x).push = x := rfl
@[simp] theorem withPush_pop (s : State) (x : Push) : (s.withPush x).pop = s.pop := rfl
@[simp] theorem withPush_link (s : State) (x : Push) : (s.withPush x).link = s.link := rfl
@[simp] theorem withPush_seq (s : State) (x : Push) : (s.withPush x).seq = s.seq := rfl
@[simp] theorem withPush_array (s : State) (x : Push) : (s.withPush x).array = s.array := rfl
@[simp] theorem withPush_pending (s : State) (x : Push) : (s.withPush x).pending = s.pending := rfl

@[simp] theorem withPop_window (s : State) (x : Pop) : (s.withPop x).window = s.window := rfl
@[simp] theorem withPop_events (s : State) (x : Pop) : (s.withPop x).events = s.events := rfl
@[simp] theorem withPop_modeCtl (s : State) (x : Pop) : (s.withPop x).modeCtl = s.modeCtl := rfl
@[simp] theorem withPop_stamp (s : State) (x : Pop) : (s.withPop x).stamp = s.stamp := rfl
@[simp] theorem withPop_queues (s : State) (x : Pop) : (s.withPop x).queues = s.queues := rfl
@[simp] theorem withPop_pool (s : State) (x : Pop) : (s.withPop x).pool = s.pool := rfl
@[simp] theorem withPop_push (s : State) (x : Pop) : (s.withPop x).push = s.push := rfl
@[simp] theorem withPop_pop (s : State) (x : Pop) : (s.withPop x).pop = x := rfl
@[simp] theorem withPop_link (s : State) (x : Pop) : (s.withPop x).link = s.link := rfl
@[simp] theorem withPop_seq (s : State) (x : Pop) : (s.withPop x).seq = s.seq := rfl
@[simp] theorem withPop_array (s : State) (x : Pop) : (s.withPop x).array = s.array := rfl
@[simp] theorem withPop_pending (s : State) (x : Pop) : (s.withPop x).pending = s.pending := rfl

@[simp] theorem withLink_window (s : State) (x : Link) : (s.withLink x).window = s.window := rfl
@[simp] theorem withLink_events (s : State) (x : Link) : (s.withLink x).events = s.events := rfl
@[simp] theorem withLink_modeCtl (s : State) (x : Link) : (s.withLink x).modeCtl = s.modeCtl := rfl
@[simp] theorem withLink_stamp (s : State) (x : Link) : (s.withLink x).stamp = s.stamp := rfl
@[simp] theorem withLink_queues (s : State) (x : Link) : (s.withLink x).queues = s.queues := rfl
@[simp] theorem withLink_pool (s : State) (x : Link) : (s.withLink x).pool = s.pool := rfl
@[simp] theorem withLink_push (s : State) (x : Link) : (s.withLink x).push = s.push := rfl
@[simp] theorem withLink_pop (s : State) (x : Link) : (s.withLink x).pop = s.pop := rfl
@[simp] theorem withLink_link (s : State) (x : Link) : (s.withLink x).link = x := rfl
@[simp] theorem withLink_seq (s : State) (x : Link) : (s.withLink x).seq = s.seq := rfl
@[simp] theorem withLink_array (s : State) (x : Link) : (s.withLink x).array = s.array := rfl
@[simp] theorem withLink_pending (s : State) (x : Link) : (s.withLink x).pending = s.pending := rfl

@[simp] theorem withSeq_window (s : State) (x : Seq) : (s.withSeq x).window = s.window := rfl
@[simp] theorem withSeq_events (s : State) (x : Seq) : (s.withSeq x).events = s.events := rfl
@[simp] theorem withSeq_modeCtl (s : State) (x : Seq) : (s.withSeq x).modeCtl = s.modeCtl := rfl
@[simp] theorem withSeq_stamp (s : State) (x : Seq) : (s.withSeq x).stamp = s.stamp := rfl
@[simp] theorem withSeq_queues (s : State) (x : Seq) : (s.withSeq x).queues = s.queues := rfl
@[simp] theorem withSeq_pool (s : State) (x : Seq) : (s.withSeq x).pool = s.pool := rfl
@[simp] theorem withSeq_push (s : State) (x : Seq) : (s.withSeq x).push = s.push := rfl
@[simp] theorem withSeq_pop (s : State) (x : Seq) : (s.withSeq x).pop = s.pop := rfl
@[simp] theorem withSeq_link (s : State) (x : Seq) : (s.withSeq x).link = s.link := rfl
@[simp] theorem withSeq_seq (s : State) (x : Seq) : (s.withSeq x).seq = x := rfl
@[simp] theorem withSeq_array (s : State) (x : Seq) : (s.withSeq x).array = s.array := rfl
@[simp] theorem withSeq_pending (s : State) (x : Seq) : (s.withSeq x).pending = s.pending := rfl

@[simp] theorem withArray_window (s : State) (x : ArrayMem) : (s.withArray x).window = s.window := rfl
@[simp] theorem withArray_events (s : State) (x : ArrayMem) : (s.withArray x).events = s.events := rfl
@[simp] theorem withArray_modeCtl (s : State) (x : ArrayMem) : (s.withArray x).modeCtl = s.modeCtl := rfl
@[simp] theorem withArray_stamp (s : State) (x : ArrayMem) : (s.withArray x).stamp = s.stamp := rfl
@[simp] theorem withArray_queues (s : State) (x : ArrayMem) : (s.withArray x).queues = s.queues := rfl
@[simp] theorem withArray_pool (s : State) (x : ArrayMem) : (s.withArray x).pool = s.pool := rfl
@[simp] theorem withArray_push (s : State) (x : ArrayMem) : (s.withArray x).push = s.push := rfl
@[simp] theorem withArray_pop (s : State) (x : ArrayMem) : (s.withArray x).pop = s.pop := rfl
@[simp] theorem withArray_link (s : State) (x : ArrayMem) : (s.withArray x).link = s.link := rfl
@[simp] theorem withArray_seq (s : State) (x : ArrayMem) : (s.withArray x).seq = s.seq := rfl
@[simp] theorem withArray_array (s : State) (x : ArrayMem) : (s.withArray x).array = x := rfl
@[simp] theorem withArray_pending (s : State) (x : ArrayMem) : (s.withArray x).pending = s.pending := rfl

@[simp] theorem withPending_window (s : State) (x : List Instr) : (s.withPending x).window = s.window := rfl
@[simp] theorem withPending_events (s : State) (x : List Instr) : (s.withPending x).events = s.events := rfl
@[simp] theorem withPending_modeCtl (s : State) (x : List Instr) : (s.withPending x).modeCtl = s.modeCtl := rfl
@[simp] theorem withPending_stamp (s : State) (x : List Instr) : (s.withPending x).stamp = s.stamp := rfl
@[simp] theorem withPending_queues (s : State) (x : List Instr) : (s.withPending x).queues = s.queues := rfl
@[simp] theorem withPending_pool (s : State) (x : List Instr) : (s.withPending x).pool = s.pool := rfl
@[simp] theorem withPending_push (s : State) (x : List Instr) : (s.withPending x).push = s.push := rfl
@[simp] theorem withPending_pop (s : State) (x : List Instr) : (s.withPending x).pop = s.pop := rfl
@[simp] theorem withPending_link (s : State) (x : List Instr) : (s.withPending x).link = s.link := rfl
@[simp] theorem withPending_seq (s : State) (x : List Instr) : (s.withPending x).seq = s.seq := rfl
@[simp] theorem withPending_array (s : State) (x : List Instr) : (s.withPending x).array = s.array := rfl
@[simp] theorem withPending_pending (s : State) (x : List Instr) : (s.withPending x).pending = x := rfl

theorem queue_setQueue (s : State) (q r : QId) (x : Queue) :
    (s.setQueue q x).queue r = if q = r then x else s.queue r := by
  simp only [State.queue, State.setQueue, withQueues_queues, Vector.getElem_set, Fin.ext_iff]

@[simp] theorem queue_setQueue_self (s : State) (q : QId) (x : Queue) : (s.setQueue q x).queue q = x := by
  simp [queue_setQueue]

@[simp] theorem setQueue_window (s : State) (q : QId) (x : Queue) : (s.setQueue q x).window = s.window := rfl
@[simp] theorem setQueue_events (s : State) (q : QId) (x : Queue) : (s.setQueue q x).events = s.events := rfl
@[simp] theorem setQueue_modeCtl (s : State) (q : QId) (x : Queue) : (s.setQueue q x).modeCtl = s.modeCtl := rfl
@[simp] theorem setQueue_stamp (s : State) (q : QId) (x : Queue) : (s.setQueue q x).stamp = s.stamp := rfl
@[simp] theorem setQueue_pool (s : State) (q : QId) (x : Queue) : (s.setQueue q x).pool = s.pool := rfl
@[simp] theorem setQueue_push (s : State) (q : QId) (x : Queue) : (s.setQueue q x).push = s.push := rfl
@[simp] theorem setQueue_pop (s : State) (q : QId) (x : Queue) : (s.setQueue q x).pop = s.pop := rfl
@[simp] theorem setQueue_link (s : State) (q : QId) (x : Queue) : (s.setQueue q x).link = s.link := rfl
@[simp] theorem setQueue_seq (s : State) (q : QId) (x : Queue) : (s.setQueue q x).seq = s.seq := rfl
@[simp] theorem setQueue_array (s : State) (q : QId) (x : Queue) : (s.setQueue q x).array = s.array := rfl
@[simp] theorem setQueue_pending (s : State) (q : QId) (x : Queue) : (s.setQueue q x).pending = s.pending := rfl

@[simp] theorem queue_withWindow (s : State) (x : Window) (q : QId) : (s.withWindow x).queue q = s.queue q := rfl
@[simp] theorem queue_withEvents (s : State) (x : Events) (q : QId) : (s.withEvents x).queue q = s.queue q := rfl
@[simp] theorem queue_withModeCtl (s : State) (x : ModeCtl) (q : QId) : (s.withModeCtl x).queue q = s.queue q := rfl
@[simp] theorem queue_withStamp (s : State) (x : Stamp) (q : QId) : (s.withStamp x).queue q = s.queue q := rfl
@[simp] theorem queue_withPool (s : State) (x : Pool) (q : QId) : (s.withPool x).queue q = s.queue q := rfl
@[simp] theorem queue_withPush (s : State) (x : Push) (q : QId) : (s.withPush x).queue q = s.queue q := rfl
@[simp] theorem queue_withPop (s : State) (x : Pop) (q : QId) : (s.withPop x).queue q = s.queue q := rfl
@[simp] theorem queue_withLink (s : State) (x : Link) (q : QId) : (s.withLink x).queue q = s.queue q := rfl
@[simp] theorem queue_withSeq (s : State) (x : Seq) (q : QId) : (s.withSeq x).queue q = s.queue q := rfl
@[simp] theorem queue_withArray (s : State) (x : ArrayMem) (q : QId) : (s.withArray x).queue q = s.queue q := rfl
@[simp] theorem queue_withPending (s : State) (x : List Instr) (q : QId) : (s.withPending x).queue q = s.queue q := rfl

/-! ### The last update of a part stands -/

@[simp] theorem withWindow_withWindow (s : State) (x y : Window) : (s.withWindow x).withWindow y = s.withWindow y := rfl
@[simp] theorem withEvents_withEvents (s : State) (x y : Events) : (s.withEvents x).withEvents y = s.withEvents y := rfl
@[simp] theorem withModeCtl_withModeCtl (s : State) (x y : ModeCtl) : (s.withModeCtl x).withModeCtl y = s.withModeCtl y := rfl
@[simp] theorem withStamp_withStamp (s : State) (x y : Stamp) : (s.withStamp x).withStamp y = s.withStamp y := rfl
@[simp] theorem withQueues_withQueues (s : State) (x y : Vector Queue 24) : (s.withQueues x).withQueues y = s.withQueues y := rfl
@[simp] theorem withPool_withPool (s : State) (x y : Pool) : (s.withPool x).withPool y = s.withPool y := rfl
@[simp] theorem withPush_withPush (s : State) (x y : Push) : (s.withPush x).withPush y = s.withPush y := rfl
@[simp] theorem withPop_withPop (s : State) (x y : Pop) : (s.withPop x).withPop y = s.withPop y := rfl
@[simp] theorem withLink_withLink (s : State) (x y : Link) : (s.withLink x).withLink y = s.withLink y := rfl
@[simp] theorem withSeq_withSeq (s : State) (x y : Seq) : (s.withSeq x).withSeq y = s.withSeq y := rfl
@[simp] theorem withArray_withArray (s : State) (x y : ArrayMem) : (s.withArray x).withArray y = s.withArray y := rfl
@[simp] theorem withPending_withPending (s : State) (x y : List Instr) : (s.withPending x).withPending y = s.withPending y := rfl

end Sys2Proof.Machine
end

