-- ==== Sys2Proof/Laws/Reaction.lean ====
section
/-! SUPPORT. The reactions inside one event leave the array, the waiting commands and every configuration as they
are (`settle_reaction`): one lemma per operation, each closed under what was done before it. -/

set_option linter.unreachableTactic false
set_option linter.unusedTactic false

namespace Sys2Proof.Machine

theorem Reaction.refl (s : State) : Reaction s s :=
  ⟨rfl, rfl, rfl, rfl, rfl, Or.inl ⟨rfl, rfl⟩, Or.inl rfl, rfl, rfl, rfl, rfl, fun _ => rfl⟩

theorem chosen.not_ready {x y : Seq} (h : chosen x y) : y.state ≠ .ready := by
  rcases h.2.2 with ⟨_, _, e, _⟩ | ⟨_, e, _⟩ <;> rw [e] <;> decide

/-! ### The updates -/

theorem withWindow_reacts {s t : State} {x : Window} (h : Reaction s t)
    (e : x = { t.window with qres := x.qres }) : Reaction s (t.withWindow x) := by
  refine { h with window := ?_ }
  have w := h.window
  simp only [withWindow_window]
  rw [e, w]

theorem withPool_reacts {s t : State} {x : Pool} (h : Reaction s t) : Reaction s (t.withPool x) := { h with }

theorem withPush_reacts {s t : State} {x : Push} (h : Reaction s t) (e : pushKept x = pushKept t.push) :
    Reaction s (t.withPush x) := { h with push := e.trans h.push }

theorem withPop_reacts {s t : State} {x : Pop} (h : Reaction s t) (e : popKept x = popKept t.pop) :
    Reaction s (t.withPop x) := { h with pop := e.trans h.pop }

theorem withLink_reacts {s t : State} {x : Link} (h : Reaction s t) (e : linkKept x = linkKept t.link) :
    Reaction s (t.withLink x) := { h with link := e.trans h.link }

theorem withEvents_reacts {s t : State} {x : Events} (h : Reaction s t) (e : eventsKept x = eventsKept t.events) :
    Reaction s (t.withEvents x) := { h with events := e.trans h.events }

theorem withSeq_reacts {s t : State} {x : Seq} (h : Reaction s t) (k : seqKept x = seqKept t.seq)
    (st : x.state = t.seq.state) (op : x.op = t.seq.op) : Reaction s (t.withSeq x) := by
  refine { h with seq := k.trans h.seq, op := ?_ }
  simpa only [withSeq_seq, st, op, chosen] using h.op

theorem withSeq_chosen {s t : State} {x : Seq} (h : Reaction s t) (k : seqKept x = seqKept t.seq)
    (c : chosen t.seq x) : Reaction s (t.withSeq x) := by
  refine { h with seq := k.trans h.seq, op := ?_ }
  rcases h.op with ⟨a, _⟩ | b
  · refine Or.inr ⟨a ▸ c.1, ?_, c.2.2⟩
    have u : t.seq.unconfirmed = s.seq.unconfirmed := congrArg (fun z => z.1.2.2.1) h.seq
    exact u ▸ c.2.1
  · exact absurd c.1 b.not_ready

theorem withModeCtl_reacts {s t : State} {x : ModeCtl} (h : Reaction s t) (c : stopped t.modeCtl x) :
    Reaction s (t.withModeCtl x) := by
  refine { h with mode := ?_ }
  rcases h.mode with a | b
  · exact Or.inr (a ▸ c)
  · have m := c.1
    rw [b.2] at m
    exact nomatch m

theorem setQueue_reacts {s t : State} {q : QId} {x : Queue} (h : Reaction s t)
    (e : queueKept x = queueKept (t.queue q)) : Reaction s (t.setQueue q x) := by
  refine { h with queues := fun r => ?_ }
  rw [queue_setQueue]
  split
  · next i => subst i; exact e.trans (h.queues q)
  · exact h.queues r

/-- An optional reaction leaves what `Reaction` says. -/
def Reacts (s : State) (o : Option State) : Prop := ∀ u, o = some u → Reaction s u

theorem reacts_none (s : State) : Reacts s none := fun _ e => nomatch e

theorem reacts_some {s t : State} (h : Reaction s t) : Reacts s (some t) := fun _ e => Option.some.inj e ▸ h

theorem reacts_map {s : State} {α : Type} {o : Option α} {f : α → State} (h : ∀ a, Reaction s (f a)) :
    Reacts s (o.map f) := by
  cases o with
  | none => exact reacts_none s
  | some a => exact reacts_some (h a)

theorem reacts_or {s : State} {o p : Option State} (a : Reacts s o) (b : Reacts s p) : Reacts s (o.or p) := by
  cases o with
  | none => exact b
  | some _ => exact a

/-! ### Parts that keep what is kept -/

theorem linkKept_ackHeld (l : Link) : linkKept (ackHeld l) = linkKept l := by
  unfold ackHeld; split <;> rfl

theorem linkKept_reclaim (l : Link) : linkKept (reclaim l) = linkKept l := by
  unfold reclaim stopIdleGrant
  cases l.timer with
  | none => rfl
  | some t => dsimp only; split <;> rfl

theorem pushKept_remainderEnters (x : Push) : pushKept (remainderEnters x) = pushKept x := by
  unfold remainderEnters; split <;> rfl

theorem queueKept_headAdvance (x : Queue) (o : Option Pos) (r : Removal) :
    queueKept (headAdvance x o r) = queueKept x := by
  unfold headAdvance; dsimp only; split
  · rfl
  · split <;> rfl

theorem queueKept_cancelEffect (x : Queue) : queueKept (cancelEffect x) = queueKept x := by
  unfold cancelEffect; dsimp only; split <;> rfl

theorem queueKept_joinedBlock (b : Nat) (x : Queue) : queueKept (joinedBlock b x) = queueKept x := by
  unfold joinedBlock; split <;> rfl

theorem queue_dropOwed (s : State) (q r : QId) : (dropOwed s q).queue r = s.queue r := by
  unfold dropOwed
  split
  · rfl
  · split
    · rfl
    · next p _ => cases p <;> rfl

/-! ### The operations -/

theorem setGlobal_reacts {s t : State} {c : GlobalCause} {v : Bool} (hr : Reaction s t) : Reaction s (setGlobal c v t) := by
  unfold setGlobal
  repeat' (first | with_reducible exact hr | rfl | with_reducible apply withEvents_reacts | split | dsimp only)

theorem raise_reacts {s t : State} {c : GlobalCause} (hr : Reaction s t) : Reaction s (raise c t) := by
  unfold raise
  repeat' (first | with_reducible exact hr | rfl | with_reducible apply setGlobal_reacts | split | dsimp only)

theorem clear_reacts {s t : State} {c : GlobalCause} (hr : Reaction s t) : Reaction s (clear c t) := by
  unfold clear
  repeat' (first | with_reducible exact hr | rfl | with_reducible apply setGlobal_reacts | split | dsimp only)

theorem setQueueCause_reacts {s t : State} {c : QueueCause} {q : QId} {v : Bool} (hr : Reaction s t) : Reaction s (setQueueCause c q v t) := by
  unfold setQueueCause
  repeat' (first | with_reducible exact hr | rfl | with_reducible apply withEvents_reacts | split | dsimp only)

theorem raiseQueue_reacts {s t : State} {c : QueueCause} {q : QId} (hr : Reaction s t) : Reaction s (raiseQueue c q t) := by
  unfold raiseQueue
  repeat' (first | with_reducible exact hr | rfl | with_reducible apply setQueueCause_reacts | split | dsimp only)

theorem clearQueue_reacts {s t : State} {c : QueueCause} {q : QId} (hr : Reaction s t) : Reaction s (clearQueue c q t) := by
  unfold clearQueue
  repeat' (first | with_reducible exact hr | rfl | with_reducible apply setQueueCause_reacts | split | dsimp only)

theorem makeClaim_reacts {s t : State} {q : QId} {c : Claim} (hr : Reaction s t) : Reaction s (makeClaim q c t) := by
  unfold makeClaim
  repeat' (first | with_reducible exact hr | rfl | with_reducible apply setQueue_reacts | split | dsimp only)

theorem setWriter_reacts {s t : State} {p : Producer} {w : Writer} (hr : Reaction s t) : Reaction s (State.setWriter t p w) := by
  unfold State.setWriter
  repeat' (first | with_reducible exact hr | rfl | with_reducible apply withPush_reacts | with_reducible apply withLink_reacts | split | dsimp only)

theorem setReader_reacts {s t : State} {c : Consumer} {r : Reader} (hr : Reaction s t)
    (e : (r.hdr, r.remaining) = ((t.reader c).hdr, (t.reader c).remaining)) : Reaction s (t.setReader c r) := by
  cases c
  · exact withPop_reacts hr e
  · exact withLink_reacts hr rfl

theorem setStage_reacts {s t : State} {p : Producer} {g : StepStage} (hr : Reaction s t) : Reaction s (setStage p g t) := by
  unfold setStage
  repeat' (first | with_reducible exact hr | rfl | with_reducible apply setWriter_reacts | split | dsimp only)

theorem endStep_reacts {s t : State} {p : Producer} (hr : Reaction s t) : Reaction s (endStep p t) := by
  unfold endStep
  repeat' (first | with_reducible exact hr | rfl | with_reducible apply setWriter_reacts | split | dsimp only)

theorem producerClaim_reacts {s t : State} {p : Producer} {c : Claim} (hr : Reaction s t) : Reaction s (producerClaim p c t) := by
  unfold producerClaim
  repeat' (first | with_reducible exact hr | rfl | with_reducible apply makeClaim_reacts | split | dsimp only)

theorem consumerClaim_reacts {s t : State} {c : Consumer} {x : Claim} (hr : Reaction s t) : Reaction s (consumerClaim c x t) := by
  unfold consumerClaim
  repeat' (first | with_reducible exact hr | rfl | with_reducible apply makeClaim_reacts | split | dsimp only)

theorem post_reacts {s t : State} {c : Client} {r : Request} (hr : Reaction s t) : Reaction s (post c r t) := by
  unfold post
  repeat' (first | with_reducible exact hr | rfl | with_reducible apply withSeq_reacts | split | dsimp only)

theorem setQres_reacts {s t : State} {r : QRes} (hr : Reaction s t) : Reaction s (setQres r t) := by
  unfold setQres
  repeat' (first | with_reducible exact hr | rfl | with_reducible apply withWindow_reacts | split | dsimp only)

theorem drainLeft_reacts {s t : State} {q : QId} (hr : Reaction s t) : Reaction s (drainLeft q t) := by
  unfold drainLeft
  repeat' (first | with_reducible exact hr | rfl | with_reducible apply withLink_reacts | split | dsimp only)

theorem serveWaiting_reacts {s t : State} (hr : Reaction s t) : Reaction s (serveWaiting t) := by
  unfold serveWaiting
  repeat' (first | with_reducible exact hr | rfl | with_reducible apply setStage_reacts | with_reducible apply withPool_reacts | split | dsimp only)

theorem allocate_reacts {s t : State} {p : Producer} (hr : Reaction s t) : Reaction s (allocate p t) := by
  unfold allocate
  repeat' (first | with_reducible exact hr | rfl | with_reducible apply setStage_reacts | with_reducible apply withPool_reacts | split | dsimp only)

theorem poolPut_reacts {s t : State} {g : Segment} (hr : Reaction s t) : Reaction s (poolPut g t) := by
  unfold poolPut
  repeat' (first | with_reducible exact hr | rfl | with_reducible apply serveWaiting_reacts | with_reducible apply withPool_reacts | split | dsimp only)

theorem poolPutSingle_reacts {s t : State} {b : Nat} {p : Producer} (hr : Reaction s t) : Reaction s (poolPutSingle b p t) := by
  unfold poolPutSingle
  repeat' (first | with_reducible exact hr | rfl | with_reducible apply serveWaiting_reacts | with_reducible apply poolPut_reacts | with_reducible apply withPool_reacts | split | dsimp only)

theorem releaseSingle_reacts {s t : State} {b : Nat} {p : Producer} (hr : Reaction s t) : Reaction s (releaseSingle b p t) := by
  unfold releaseSingle
  repeat' (first | with_reducible exact hr | rfl | with_reducible apply poolPutSingle_reacts | with_reducible apply withPool_reacts | split | dsimp only)

theorem cacheLeft_reacts {s t : State} {b : Nat} (hr : Reaction s t) : Reaction s (cacheLeft b t) := by
  unfold cacheLeft
  repeat' (first | with_reducible exact hr | rfl | with_reducible apply withPool_reacts | split | dsimp only)

theorem pushIdle_reacts {s t : State} {r : PushResult} (hr : Reaction s t) : Reaction s (pushIdle r t) := by
  unfold pushIdle
  repeat' (first | with_reducible exact hr | rfl | with_reducible apply withPush_reacts | split | dsimp only)

theorem pushCancel_reacts {s t : State} {r : PushResult} (hr : Reaction s t) : Reaction s (pushCancel r t) := by
  unfold pushCancel
  repeat' (first | with_reducible exact hr | rfl | with_reducible apply withPush_reacts | split | dsimp only)

theorem withdrawCommit_reacts {s t : State} (hr : Reaction s t) : Reaction s (withdrawCommit t) := by
  unfold withdrawCommit
  repeat' (first | with_reducible exact hr | rfl | with_reducible apply setQueue_reacts | split | dsimp only)

theorem inboundCancel_reacts {s t : State} {v : Option Verdict} (hr : Reaction s t) : Reaction s (inboundCancel v t) := by
  unfold inboundCancel
  repeat' (first | with_reducible exact hr | rfl | with_reducible apply withdrawCommit_reacts | with_reducible apply withLink_reacts | exact linkKept_ackHeld _ | split | dsimp only)

theorem inboundReject_reacts {s t : State} (hr : Reaction s t) : Reaction s (inboundReject t) := by
  unfold inboundReject
  repeat' (first | with_reducible exact hr | rfl | with_reducible apply inboundCancel_reacts | split | dsimp only)

theorem inboundDiscard_reacts {s t : State} (hr : Reaction s t) : Reaction s (inboundDiscard t) := by
  unfold inboundDiscard
  repeat' (first | with_reducible exact hr | rfl | with_reducible apply withLink_reacts | exact linkKept_ackHeld _ | split | dsimp only)

theorem inboundDone_reacts {s t : State} (hr : Reaction s t) : Reaction s (inboundDone t) := by
  unfold inboundDone
  repeat' (first | with_reducible exact hr | rfl | with_reducible apply withLink_reacts | split | dsimp only)

theorem refuseRecord_reacts {s t : State} {p : Producer} (hr : Reaction s t) : Reaction s (refuseRecord p t) := by
  unfold refuseRecord
  repeat' (first | with_reducible exact hr | rfl | with_reducible apply raise_reacts | with_reducible apply endStep_reacts | with_reducible apply pushCancel_reacts | with_reducible apply inboundReject_reacts | split | dsimp only)

theorem blockRefused_reacts {s t : State} {p : Producer} (hr : Reaction s t) : Reaction s (blockRefused p t) := by
  unfold blockRefused
  repeat' (first | with_reducible exact hr | rfl | with_reducible apply makeClaim_reacts | with_reducible apply setStage_reacts | with_reducible apply endStep_reacts | with_reducible apply refuseRecord_reacts | split | dsimp only)

theorem dropRecord_reacts {s t : State} {p : Producer} (hr : Reaction s t) : Reaction s (dropRecord p t) := by
  unfold dropRecord
  repeat' (first | with_reducible exact hr | rfl | with_reducible apply withPush_reacts | with_reducible apply withLink_reacts | exact linkKept_ackHeld _ | split | dsimp only)

theorem openRefused_reacts {s t : State} {p : Producer} {r : PushResult} (hr : Reaction s t) : Reaction s (openRefused p r t) := by
  unfold openRefused
  repeat' (first | with_reducible exact hr | rfl | with_reducible apply raise_reacts | with_reducible apply pushIdle_reacts | with_reducible apply inboundDiscard_reacts | with_reducible apply inboundDone_reacts | split | dsimp only)

theorem openTaken_reacts {s t : State} {p : Producer} (hr : Reaction s t) : Reaction s (openTaken p t) := by
  unfold openTaken
  repeat' (first | with_reducible exact hr | rfl | with_reducible apply setWriter_reacts | with_reducible apply withPush_reacts | split | dsimp only)

theorem cancelDone_reacts {s t : State} {p : Producer} (hr : Reaction s t) : Reaction s (cancelDone p t) := by
  unfold cancelDone
  repeat' (first | with_reducible exact hr | rfl | with_reducible apply pushIdle_reacts | with_reducible apply inboundDone_reacts | split | dsimp only)

theorem commitTaken_reacts {s t : State} {p : Producer} (hr : Reaction s t) : Reaction s (commitTaken p t) := by
  unfold commitTaken
  repeat' (first | with_reducible exact hr | rfl | with_reducible apply pushIdle_reacts | with_reducible apply withLink_reacts | split | dsimp only)

theorem commitRefused_reacts {s t : State} {p : Producer} (hr : Reaction s t) : Reaction s (commitRefused p t) := by
  unfold commitRefused
  repeat' (first | with_reducible exact hr | rfl | with_reducible apply dropRecord_reacts | split | dsimp only)

theorem beginStep_reacts {s t : State} {p : Producer} {forHeader : Bool} (hr : Reaction s t) : Reaction s (beginStep p forHeader t) := by
  unfold beginStep
  repeat' (first | with_reducible exact hr | rfl | with_reducible apply setWriter_reacts | with_reducible apply producerClaim_reacts | split | dsimp only)

theorem fixHeader_reacts {s t : State} {p : Producer} {q : QId} (hr : Reaction s t) : Reaction s (fixHeader p q t) := by
  unfold fixHeader
  repeat' (first | with_reducible exact hr | rfl | with_reducible apply setWriter_reacts | with_reducible apply beginStep_reacts | split | dsimp only)

theorem postBurst_reacts {s t : State} {p : Producer} {at_ : Pos} (hr : Reaction s t) : Reaction s (postBurst p at_ t) := by
  unfold postBurst
  repeat' (first | with_reducible exact hr | rfl | with_reducible apply setWriter_reacts | with_reducible apply post_reacts | with_reducible apply withPush_reacts | exact pushKept_remainderEnters _ | split | dsimp only)

theorem writerWork_reacts {s t : State} {p : Producer} (hr : Reaction s t) : Reacts s (writerWork p t) := by
  unfold writerWork
  repeat' (first | with_reducible exact hr | rfl | with_reducible exact reacts_none _ | with_reducible apply reacts_some | (with_reducible apply reacts_map; intro _) | with_reducible apply reacts_or | with_reducible apply setWriter_reacts | with_reducible apply post_reacts | with_reducible apply beginStep_reacts | with_reducible apply fixHeader_reacts | with_reducible apply postBurst_reacts | split | dsimp only)

theorem cancelWork_reacts {s t : State} {p : Producer} (hr : Reaction s t) : Reacts s (cancelWork p t) := by
  unfold cancelWork
  repeat' (first | with_reducible exact hr | rfl | with_reducible exact reacts_none _ | with_reducible apply reacts_some | (with_reducible apply reacts_map; intro _) | with_reducible apply reacts_or | with_reducible apply setWriter_reacts | with_reducible apply producerClaim_reacts | with_reducible apply cancelDone_reacts | split | dsimp only)

theorem stepWork_reacts {s t : State} {p : Producer} {b : BlockStep} (hr : Reaction s t) : Reacts s (stepWork p b t) := by
  unfold stepWork
  repeat' (first | with_reducible exact hr | rfl | with_reducible exact reacts_none _ | with_reducible apply reacts_some | (with_reducible apply reacts_map; intro _) | with_reducible apply reacts_or | with_reducible apply setStage_reacts | with_reducible apply endStep_reacts | with_reducible apply producerClaim_reacts | with_reducible apply releaseSingle_reacts | with_reducible apply blockRefused_reacts | split | dsimp only)

theorem producerMicro_reacts {s t : State} {p : Producer} (hr : Reaction s t) : Reacts s (producerMicro p t) := by
  unfold producerMicro
  repeat' (first | with_reducible exact hr | rfl | with_reducible exact reacts_none _ | with_reducible apply reacts_some | (with_reducible apply reacts_map; intro _) | with_reducible apply reacts_or | with_reducible apply writerWork_reacts | with_reducible apply cancelWork_reacts | with_reducible apply stepWork_reacts | split | dsimp only)

theorem joinTaken_reacts {s t : State} {p : Producer} {n : Nat} {prev : Option Nat} {h : Nat} (hr : Reaction s t) : Reaction s (joinTaken p n prev h t) := by
  unfold joinTaken
  repeat' (first | with_reducible exact hr | rfl | with_reducible apply setWriter_reacts | split | dsimp only)

theorem dropOwed_reacts {s t : State} {q : QId} (hr : Reaction s t) : Reaction s (dropOwed t q) := by
  unfold dropOwed
  repeat' (first | with_reducible exact hr | rfl | with_reducible apply setWriter_reacts | split | dsimp only)

theorem discardLoop_reacts {s t : State} {q : QId} {p : Producer} (hr : Reaction s t) : Reaction s (discardLoop q p t) := by
  unfold discardLoop
  repeat' (first | with_reducible exact hr | rfl | with_reducible apply endStep_reacts | with_reducible apply refuseRecord_reacts | with_reducible apply setQueue_reacts | split | dsimp only)

theorem removeTaken_reacts {s t : State} {c : Consumer} (hr : Reaction s t) : Reaction s (removeTaken c t) := by
  unfold removeTaken
  repeat' (first | with_reducible exact hr | rfl | with_reducible apply withPop_reacts | with_reducible apply withLink_reacts | split | dsimp only)

theorem removeRefused_reacts {s t : State} {c : Consumer} (hr : Reaction s t) : Reaction s (removeRefused c t) := by
  unfold removeRefused
  repeat' (first | with_reducible exact hr | rfl | with_reducible apply withPop_reacts | with_reducible apply withLink_reacts | split | dsimp only)

theorem finishWork_reacts {s t : State} {q : QId} (hr : Reaction s t) : Reaction s (finishWork q t) := by
  unfold finishWork
  repeat' (first | with_reducible exact hr | rfl | with_reducible apply raiseQueue_reacts | with_reducible apply setStage_reacts | with_reducible apply setQres_reacts | with_reducible apply drainLeft_reacts | with_reducible apply cancelDone_reacts | with_reducible apply dropOwed_reacts | with_reducible apply discardLoop_reacts | with_reducible apply removeTaken_reacts | with_reducible apply setQueue_reacts | exact queueKept_cancelEffect _ | exact (queueKept_headAdvance _ _ _).trans (by rw [queue_dropOwed]) | split | dsimp only)

theorem tryWork_reacts {s t : State} {q : QId} (hr : Reaction s t) : Reaction s (tryWork q t) := by
  unfold tryWork
  repeat' (first | with_reducible exact hr | rfl | with_reducible apply poolPut_reacts | with_reducible apply finishWork_reacts | with_reducible apply withPool_reacts | with_reducible apply setQueue_reacts | split | dsimp only)

theorem beginWork_reacts {s t : State} {q : QId} {w : Work} (hr : Reaction s t) : Reaction s (beginWork q w t) := by
  unfold beginWork
  repeat' (first | with_reducible exact hr | rfl | with_reducible apply tryWork_reacts | with_reducible apply setQueue_reacts | split | dsimp only)

theorem popPinned_reacts {s t : State} {x : Queue} (hr : Reaction s t) : Reaction s (popPinned x t) := by
  unfold popPinned
  repeat' (first | with_reducible exact hr | rfl | with_reducible apply withPop_reacts | split | dsimp only)

theorem popRefused_reacts {s t : State} {r : PopResult} (hr : Reaction s t) : Reaction s (popRefused r t) := by
  unfold popRefused
  repeat' (first | with_reducible exact hr | rfl | with_reducible apply withPop_reacts | split | dsimp only)

theorem answerOpen_reacts {s t : State} {q : QId} {p : Producer} (hr : Reaction s t) : Reaction s (answerOpen q p t) := by
  unfold answerOpen
  repeat' (first | with_reducible exact hr | rfl | with_reducible apply openRefused_reacts | with_reducible apply openTaken_reacts | with_reducible apply setQueue_reacts | split | dsimp only)

theorem answerExtension_reacts {s t : State} {q : QId} {p : Producer} (hr : Reaction s t) : Reaction s (answerExtension q p t) := by
  unfold answerExtension
  repeat' (first | with_reducible exact hr | rfl | with_reducible apply endStep_reacts | with_reducible apply allocate_reacts | with_reducible apply blockRefused_reacts | split | dsimp only)

theorem answerJoin_reacts {s t : State} {q : QId} {p : Producer} {b : Nat} (hr : Reaction s t) : Reaction s (answerJoin q p b t) := by
  unfold answerJoin
  repeat' (first | with_reducible exact hr | rfl | with_reducible apply endStep_reacts | with_reducible apply releaseSingle_reacts | with_reducible apply cacheLeft_reacts | with_reducible apply joinTaken_reacts | with_reducible apply setQueue_reacts | exact queueKept_joinedBlock _ _ | split | dsimp only)

theorem answerCommit_reacts {s t : State} {q : QId} {p : Producer} {length : Nat} {header : Pos} {endPos : Pos} (hr : Reaction s t) : Reaction s (answerCommit q p length header endPos t) := by
  unfold answerCommit
  repeat' (first | with_reducible exact hr | rfl | with_reducible apply raiseQueue_reacts | with_reducible apply commitTaken_reacts | with_reducible apply commitRefused_reacts | with_reducible apply setQueue_reacts | split | dsimp only)

theorem answerCancel_reacts {s t : State} {q : QId} {p : Producer} (hr : Reaction s t) : Reaction s (answerCancel q p t) := by
  unfold answerCancel
  repeat' (first | with_reducible exact hr | rfl | with_reducible apply cancelDone_reacts | with_reducible apply beginWork_reacts | split | dsimp only)

theorem answerPin_reacts {s t : State} {q : QId} {c : Consumer} {wanted : Bool} (hr : Reaction s t) : Reaction s (answerPin q c wanted t) := by
  unfold answerPin
  repeat' (first | with_reducible exact hr | rfl | with_reducible apply clearQueue_reacts | with_reducible apply popPinned_reacts | with_reducible apply popRefused_reacts | with_reducible apply setQueue_reacts | split | dsimp only)

theorem answerUnpin_reacts {s t : State} {q : QId} {c : Consumer} {noticed : Bool} (hr : Reaction s t) : Reaction s (answerUnpin q c noticed t) := by
  unfold answerUnpin
  repeat' (first | with_reducible exact hr | rfl | with_reducible apply withLink_reacts | with_reducible apply setQueue_reacts | split | dsimp only)

theorem answerRemove_reacts {s t : State} {q : QId} {c : Consumer} {r : Removal} (hr : Reaction s t) : Reaction s (answerRemove q c r t) := by
  unfold answerRemove
  repeat' (first | with_reducible exact hr | rfl | with_reducible apply removeRefused_reacts | with_reducible apply beginWork_reacts | split | dsimp only)

theorem answerDiscard_reacts {s t : State} {q : QId} {p : Producer} (hr : Reaction s t) : Reaction s (answerDiscard q p t) := by
  unfold answerDiscard
  repeat' (first | with_reducible exact hr | rfl | with_reducible apply endStep_reacts | with_reducible apply discardLoop_reacts | split | dsimp only)

theorem answerClaim_reacts {s t : State} {q : QId} {c : Claim} (hr : Reaction s t) : Reaction s (answerClaim q c t) := by
  unfold answerClaim
  repeat' (first | with_reducible exact hr | rfl | with_reducible apply answerOpen_reacts | with_reducible apply answerExtension_reacts | with_reducible apply answerJoin_reacts | with_reducible apply answerCommit_reacts | with_reducible apply answerCancel_reacts | with_reducible apply answerPin_reacts | with_reducible apply answerUnpin_reacts | with_reducible apply answerRemove_reacts | with_reducible apply answerDiscard_reacts | split | dsimp only)

theorem claimMicro_reacts {s t : State} (hr : Reaction s t) : Reacts s (claimMicro t) := by
  unfold claimMicro
  repeat' (first | with_reducible exact hr | rfl | with_reducible exact reacts_none _ | with_reducible apply reacts_some | (with_reducible apply reacts_map; intro _) | with_reducible apply reacts_or | with_reducible apply answerClaim_reacts | with_reducible apply setQueue_reacts | split | dsimp only)

theorem takeFront_reacts {s t : State} (hr : Reaction s t) : Reaction s (takeFront t) := by
  unfold takeFront
  repeat' (first | with_reducible exact hr | rfl | with_reducible apply poolPut_reacts | with_reducible apply poolPutSingle_reacts | with_reducible apply finishWork_reacts | with_reducible apply withPool_reacts | split | dsimp only)

theorem handoverMicro_reacts {s t : State} (hr : Reaction s t) : Reacts s (handoverMicro t) := by
  unfold handoverMicro
  repeat' (first | with_reducible exact hr | rfl | with_reducible exact reacts_none _ | with_reducible apply reacts_some | (with_reducible apply reacts_map; intro _) | with_reducible apply reacts_or | with_reducible apply takeFront_reacts | split | dsimp only)

theorem owedMicro_reacts {s t : State} (hr : Reaction s t) : Reacts s (owedMicro t) := by
  unfold owedMicro
  repeat' (first | with_reducible exact hr | rfl | with_reducible exact reacts_none _ | with_reducible apply reacts_some | (with_reducible apply reacts_map; intro _) | with_reducible apply reacts_or | with_reducible apply tryWork_reacts | split | dsimp only)

theorem discardWork_reacts {s t : State} {q : QId} {d : Discard} (hr : Reaction s t) : Reacts s (discardWork q d t) := by
  unfold discardWork
  repeat' (first | with_reducible exact hr | rfl | with_reducible exact reacts_none _ | with_reducible apply reacts_some | (with_reducible apply reacts_map; intro _) | with_reducible apply reacts_or | with_reducible apply post_reacts | with_reducible apply beginWork_reacts | with_reducible apply setQueue_reacts | split | dsimp only)

theorem fetchNext_reacts {s t : State} {c : Consumer} (hr : Reaction s t) : Reacts s (fetchNext c t) := by
  unfold fetchNext
  repeat' (first | with_reducible exact hr | rfl | with_reducible exact reacts_none _ | with_reducible apply reacts_some | (with_reducible apply reacts_map; intro _) | with_reducible apply reacts_or | with_reducible apply setReader_reacts | with_reducible apply post_reacts | split | dsimp only)

theorem headerNext_reacts {s t : State} {c : Consumer} (hr : Reaction s t) : Reacts s (headerNext c t) := by
  unfold headerNext
  repeat' (first | with_reducible exact hr | rfl | with_reducible exact reacts_none _ | with_reducible apply reacts_some | (with_reducible apply reacts_map; intro _) | with_reducible apply reacts_or | with_reducible apply post_reacts | split | dsimp only)

theorem walkNext_reacts {s t : State} {c : Consumer} (hr : Reaction s t) : Reacts s (walkNext c t) := by
  unfold walkNext
  repeat' (first | with_reducible exact hr | rfl | with_reducible exact reacts_none _ | with_reducible apply reacts_some | (with_reducible apply reacts_map; intro _) | with_reducible apply reacts_or | with_reducible apply makeClaim_reacts | with_reducible apply setReader_reacts | with_reducible apply post_reacts | split | dsimp only)

theorem popMicro_reacts {s t : State} (hr : Reaction s t) : Reacts s (popMicro t) := by
  unfold popMicro
  repeat' (first | with_reducible exact hr | rfl | with_reducible exact reacts_none _ | with_reducible apply reacts_some | (with_reducible apply reacts_map; intro _) | with_reducible apply reacts_or | with_reducible apply fetchNext_reacts | with_reducible apply headerNext_reacts | with_reducible apply walkNext_reacts | split | dsimp only)

theorem beginSend_reacts {s t : State} (hr : Reaction s t) : Reaction s (beginSend t) := by
  unfold beginSend
  repeat' (first | with_reducible exact hr | rfl | with_reducible apply withLink_reacts | with_reducible apply setQueue_reacts | split | dsimp only)

theorem arbiter_reacts {s t : State} (hr : Reaction s t) : Reacts s (arbiter t) := by
  unfold arbiter
  repeat' (first | with_reducible exact hr | rfl | with_reducible exact reacts_none _ | with_reducible apply reacts_some | (with_reducible apply reacts_map; intro _) | with_reducible apply reacts_or | with_reducible apply beginSend_reacts | with_reducible apply withLink_reacts | split | dsimp only)

theorem idleGrantTimer_reacts {s t : State} (hr : Reaction s t) : Reacts s (idleGrantTimer t) := by
  unfold idleGrantTimer
  repeat' (first | with_reducible exact hr | rfl | with_reducible exact reacts_none _ | with_reducible apply reacts_some | (with_reducible apply reacts_map; intro _) | with_reducible apply reacts_or | with_reducible apply withLink_reacts | split | dsimp only)

theorem grantedMicro_reacts {s t : State} (hr : Reaction s t) : Reacts s (grantedMicro t) := by
  unfold grantedMicro
  repeat' (first | with_reducible exact hr | rfl | with_reducible exact reacts_none _ | with_reducible apply reacts_some | (with_reducible apply reacts_map; intro _) | with_reducible apply reacts_or | with_reducible apply idleGrantTimer_reacts | with_reducible apply withLink_reacts | exact linkKept_reclaim _ | split | dsimp only)

theorem reclaimingMicro_reacts {s t : State} (hr : Reaction s t) : Reacts s (reclaimingMicro t) := by
  unfold reclaimingMicro
  repeat' (first | with_reducible exact hr | rfl | with_reducible exact reacts_none _ | with_reducible apply reacts_some | (with_reducible apply reacts_map; intro _) | with_reducible apply reacts_or | with_reducible apply withLink_reacts | split | dsimp only)

theorem sendingMicro_reacts {s t : State} (hr : Reaction s t) : Reacts s (sendingMicro t) := by
  unfold sendingMicro
  repeat' (first | with_reducible exact hr | rfl | with_reducible exact reacts_none _ | with_reducible apply reacts_some | (with_reducible apply reacts_map; intro _) | with_reducible apply reacts_or | with_reducible apply withLink_reacts | split | dsimp only)

theorem linkMicro_reacts {s t : State} (hr : Reaction s t) : Reacts s (linkMicro t) := by
  unfold linkMicro
  repeat' (first | with_reducible exact hr | rfl | with_reducible exact reacts_none _ | with_reducible apply reacts_some | (with_reducible apply reacts_map; intro _) | with_reducible apply reacts_or | with_reducible apply arbiter_reacts | with_reducible apply grantedMicro_reacts | with_reducible apply reclaimingMicro_reacts | with_reducible apply sendingMicro_reacts | split | dsimp only)

theorem offerNext_reacts {s t : State} (hr : Reaction s t) : Reacts s (offerNext t) := by
  unfold offerNext
  repeat' (first | with_reducible exact hr | rfl | with_reducible exact reacts_none _ | with_reducible apply reacts_some | (with_reducible apply reacts_map; intro _) | with_reducible apply reacts_or | with_reducible apply withLink_reacts | split | dsimp only)

theorem retriedWrite_reacts {s t : State} (hr : Reaction s t) : Reacts s (retriedWrite t) := by
  unfold retriedWrite
  repeat' (first | with_reducible exact hr | rfl | with_reducible exact reacts_none _ | with_reducible apply reacts_some | (with_reducible apply reacts_map; intro _) | with_reducible apply reacts_or | with_reducible apply post_reacts | with_reducible apply withLink_reacts | split | dsimp only)

theorem settlingMicro_reacts {s t : State} (hr : Reaction s t) : Reacts s (settlingMicro t) := by
  unfold settlingMicro
  repeat' (first | with_reducible exact hr | rfl | with_reducible exact reacts_none _ | with_reducible apply reacts_some | (with_reducible apply reacts_map; intro _) | with_reducible apply reacts_or | with_reducible apply walkNext_reacts | with_reducible apply retriedWrite_reacts | with_reducible apply withLink_reacts | split | dsimp only)

theorem outboundMicro_reacts {s t : State} (hr : Reaction s t) : Reacts s (outboundMicro t) := by
  unfold outboundMicro
  repeat' (first | with_reducible exact hr | rfl | with_reducible exact reacts_none _ | with_reducible apply reacts_some | (with_reducible apply reacts_map; intro _) | with_reducible apply reacts_or | with_reducible apply fetchNext_reacts | with_reducible apply headerNext_reacts | with_reducible apply offerNext_reacts | with_reducible apply settlingMicro_reacts | split | dsimp only)

theorem answerWithheld_reacts {s t : State} (hr : Reaction s t) : Reacts s (answerWithheld t) := by
  unfold answerWithheld
  repeat' (first | with_reducible exact hr | rfl | with_reducible exact reacts_none _ | with_reducible apply reacts_some | (with_reducible apply reacts_map; intro _) | with_reducible apply reacts_or | with_reducible apply withLink_reacts | split | dsimp only)

theorem heldJoins_reacts {s t : State} (hr : Reaction s t) : Reacts s (heldJoins t) := by
  unfold heldJoins
  repeat' (first | with_reducible exact hr | rfl | with_reducible exact reacts_none _ | with_reducible apply reacts_some | (with_reducible apply reacts_map; intro _) | with_reducible apply reacts_or | with_reducible apply withLink_reacts | exact linkKept_ackHeld _ | split | dsimp only)

theorem inboundMicro_reacts {s t : State} (hr : Reaction s t) : Reacts s (inboundMicro t) := by
  unfold inboundMicro
  repeat' (first | with_reducible exact hr | rfl | with_reducible exact reacts_none _ | with_reducible apply reacts_some | (with_reducible apply reacts_map; intro _) | with_reducible apply reacts_or | with_reducible apply cancelDone_reacts | with_reducible apply answerWithheld_reacts | with_reducible apply heldJoins_reacts | with_reducible apply withLink_reacts | split | dsimp only)

theorem stopMicro_reacts {s t : State} (hr : Reaction s t) : Reacts s (stopMicro t) := by
  unfold stopMicro
  repeat' (first | with_reducible exact hr | rfl | with_reducible exact reacts_none _ | with_reducible apply reacts_some | (with_reducible apply reacts_map; intro _) | with_reducible apply reacts_or | with_reducible apply raise_reacts | exact ⟨(by assumption : _ ∧ _).1, rfl⟩ | with_reducible apply withModeCtl_reacts | split | dsimp only)

theorem failAllocs_reacts {s t : State} (hr : Reaction s t) : Reaction s (failAllocs t) := by
  have key : ∀ (l : List Producer) (u : State), Reaction s u →
      Reaction s (l.foldl (fun t p => setStage p .exhausted t) u) := by
    intro l
    induction l with
    | nil => exact fun _ h => h
    | cons p l ih => exact fun u h => ih _ (setStage_reacts h)
  exact key _ _ (withPool_reacts hr)

theorem allocMicro_reacts {s t : State} (hr : Reaction s t) : Reacts s (allocMicro t) := by
  unfold allocMicro
  split
  · exact reacts_some (failAllocs_reacts hr)
  · exact reacts_none _

theorem poolMicro_reacts {s t : State} (hr : Reaction s t) : Reacts s (poolMicro t) := by
  unfold poolMicro
  split
  · exact reacts_map (fun _ => post_reacts hr)
  · exact reacts_none _

/-- The first of several optional reactions is one of them. -/
theorem reacts_findSome {s : State} {α : Type} (l : List α) (f : α → Option State)
    (h : ∀ a ∈ l, Reacts s (f a)) : Reacts s (l.findSome? f) := by
  induction l with
  | nil => exact reacts_none s
  | cons a l ih =>
    rw [List.findSome?_cons]
    cases e : f a with
    | none => exact ih (fun b hb => h b (List.mem_cons_of_mem _ hb))
    | some u => exact reacts_some (h a List.mem_cons_self u e)

theorem discardMicro_reacts {s t : State} (hr : Reaction s t) : Reacts s (discardMicro t) := by
  unfold discardMicro
  refine reacts_findSome _ _ (fun q _ => ?_)
  split
  · exact discardWork_reacts hr
  all_goals exact reacts_none s

theorem choiceMicro_reacts {s t : State} (hr : Reaction s t) : Reacts s (choiceMicro t) := by
  unfold choiceMicro
  split
  · next h =>
    simp only [choosing, Bool.and_eq_true, beq_iff_eq, decide_eq_true_eq] at h
    split
    · exact reacts_none s
    · exact reacts_some (withSeq_chosen hr rfl ⟨h.1, h.2, Or.inr ⟨_, rfl, rfl⟩⟩)
    · exact reacts_map (fun r => withSeq_chosen hr rfl ⟨h.1, h.2, Or.inl ⟨_, _, rfl, rfl⟩⟩)
  · exact reacts_none s

/-! ### The whole event -/

theorem micro_reacts {s t : State} (hr : Reaction s t) : Reacts s (micro t) := by
  unfold micro
  refine reacts_findSome _ _ (fun f hf => ?_)
  simp only [microRules, List.mem_cons, List.not_mem_nil, or_false] at hf
  rcases hf with rfl | rfl | rfl | rfl | rfl | rfl | rfl | rfl | rfl | rfl | rfl | rfl | rfl | rfl
  · exact claimMicro_reacts hr
  · exact handoverMicro_reacts hr
  · exact owedMicro_reacts hr
  · exact producerMicro_reacts hr
  · exact producerMicro_reacts hr
  · exact inboundMicro_reacts hr
  · exact popMicro_reacts hr
  · exact outboundMicro_reacts hr
  · exact discardMicro_reacts hr
  · exact poolMicro_reacts hr
  · exact linkMicro_reacts hr
  · exact allocMicro_reacts hr
  · exact stopMicro_reacts hr
  · exact choiceMicro_reacts hr

theorem settleN_reacts (n : Nat) {s t : State} (hr : Reaction s t) : Reaction s (settleN n t) := by
  induction n generalizing t with
  | zero => exact hr
  | succ n ih =>
    rw [settleN]
    cases e : micro t with
    | none => exact hr
    | some u => exact ih (micro_reacts hr u e)

/-- What the reactions inside one event leave as it is. -/
theorem settle_reaction (s : State) : Reaction s (settle s) := settleN_reacts _ (Reaction.refl s)

end Sys2Proof.Machine
end

