-- ==== Sys2Proof/Laws/Calm.lean ====
section
/-! SUPPORT. What the commands' own effects leave as it is, but for the sequencer's events (`Calm`): one lemma per
operation. -/

set_option linter.unreachableTactic false
set_option linter.unusedTactic false

namespace Sys2Proof.Machine

/-- What `SeqLegal` looks at. -/
def seqView (x : Seq) : (SeqState × Option (ArrayOp × Nat) × List Entry) × (List Entry × Nat × Bool) :=
  ((x.state, x.op, x.unconfirmed), (x.replay, x.debt, x.alertPending))

/-- LOST and REPEATED, once set, stay set. -/
def marksStay (x y : Push) : Prop := (x.lost = true → y.lost = true) ∧ (x.repeated = true → y.repeated = true)

/-- The array, the waiting commands and the sequencer's operation and lists stand; LOST and REPEATED stay set; the mode
and the enables stay legal. -/
structure Calm (s t : State) : Prop where
  array : t.array = s.array
  pending : t.pending = s.pending
  marks : marksStay s.push t.push
  enables : evenLegal s.events → evenLegal t.events
  mode : stopLegal s.modeCtl → stopLegal t.modeCtl
  seq : seqView t.seq = seqView s.seq

theorem Calm.refl (s : State) : Calm s s := ⟨rfl, rfl, ⟨id, id⟩, id, id, rfl⟩

/-! ### The updates -/

theorem withWindow_calm {s t : State} {x : Window} (hr : Calm s t) : Calm s (t.withWindow x) := { hr with }
theorem withStamp_calm {s t : State} {x : Stamp} (hr : Calm s t) : Calm s (t.withStamp x) := { hr with }
theorem withQueues_calm {s t : State} {x : Vector Queue 24} (hr : Calm s t) : Calm s (t.withQueues x) := { hr with }
theorem withPool_calm {s t : State} {x : Pool} (hr : Calm s t) : Calm s (t.withPool x) := { hr with }
theorem withPop_calm {s t : State} {x : Pop} (hr : Calm s t) : Calm s (t.withPop x) := { hr with }
theorem withLink_calm {s t : State} {x : Link} (hr : Calm s t) : Calm s (t.withLink x) := { hr with }
theorem setQueue_calm {s t : State} {q : QId} {x : Queue} (hr : Calm s t) : Calm s (t.setQueue q x) := { hr with }

theorem withPush_calm {s t : State} {x : Push} (hr : Calm s t) (e : marksStay t.push x) : Calm s (t.withPush x) :=
  { hr with marks := ⟨fun h => e.1 (hr.marks.1 h), fun h => e.2 (hr.marks.2 h)⟩ }

theorem withEvents_calm {s t : State} {x : Events} (hr : Calm s t) (e : evenLegal t.events → evenLegal x) :
    Calm s (t.withEvents x) := { hr with enables := fun h => e (hr.enables h) }

theorem withModeCtl_calm {s t : State} {x : ModeCtl} (hr : Calm s t) (e : stopLegal t.modeCtl → stopLegal x) :
    Calm s (t.withModeCtl x) := { hr with mode := fun h => e (hr.mode h) }

theorem withSeq_calm {s t : State} {x : Seq} (hr : Calm s t) (e : seqView x = seqView t.seq) : Calm s (t.withSeq x) :=
  { hr with seq := e.trans hr.seq }

/-! ### The operations -/

theorem setGlobal_calm {s t : State} {c : GlobalCause} {v : Bool} (hr : Calm s t) : Calm s (setGlobal c v t) := by
  unfold setGlobal
  repeat' (first | with_reducible exact hr | with_reducible apply withEvents_calm | exact id | split | dsimp only)

theorem raise_calm {s t : State} {c : GlobalCause} (hr : Calm s t) : Calm s (raise c t) := by
  unfold raise
  repeat' (first | with_reducible exact hr | with_reducible apply setGlobal_calm | split | dsimp only)

theorem clear_calm {s t : State} {c : GlobalCause} (hr : Calm s t) : Calm s (clear c t) := by
  unfold clear
  repeat' (first | with_reducible exact hr | with_reducible apply setGlobal_calm | split | dsimp only)

theorem setQueueCause_calm {s t : State} {c : QueueCause} {q : QId} {v : Bool} (hr : Calm s t) : Calm s (setQueueCause c q v t) := by
  unfold setQueueCause
  repeat' (first | with_reducible exact hr | with_reducible apply withEvents_calm | exact id | split | dsimp only)

theorem raiseQueue_calm {s t : State} {c : QueueCause} {q : QId} (hr : Calm s t) : Calm s (raiseQueue c q t) := by
  unfold raiseQueue
  repeat' (first | with_reducible exact hr | with_reducible apply setQueueCause_calm | split | dsimp only)

theorem clearQueue_calm {s t : State} {c : QueueCause} {q : QId} (hr : Calm s t) : Calm s (clearQueue c q t) := by
  unfold clearQueue
  repeat' (first | with_reducible exact hr | with_reducible apply setQueueCause_calm | split | dsimp only)

theorem makeClaim_calm {s t : State} {q : QId} {c : Claim} (hr : Calm s t) : Calm s (makeClaim q c t) := by
  unfold makeClaim
  repeat' (first | with_reducible exact hr | with_reducible apply setQueue_calm | split | dsimp only)

theorem setWriter_calm {s t : State} {p : Producer} {w : Writer} (hr : Calm s t) : Calm s (State.setWriter t p w) := by
  unfold State.setWriter
  repeat' (first | with_reducible exact hr | with_reducible apply withPush_calm | with_reducible apply withLink_calm | exact ⟨id, id⟩ | split | dsimp only)

theorem setReader_calm {s t : State} {c : Consumer} {r : Reader} (hr : Calm s t) : Calm s (State.setReader t c r) := by
  unfold State.setReader
  repeat' (first | with_reducible exact hr | with_reducible apply withPop_calm | with_reducible apply withLink_calm | split | dsimp only)

theorem setStage_calm {s t : State} {p : Producer} {g : StepStage} (hr : Calm s t) : Calm s (setStage p g t) := by
  unfold setStage
  repeat' (first | with_reducible exact hr | with_reducible apply setWriter_calm | split | dsimp only)

theorem endStep_calm {s t : State} {p : Producer} (hr : Calm s t) : Calm s (endStep p t) := by
  unfold endStep
  repeat' (first | with_reducible exact hr | with_reducible apply setWriter_calm | split | dsimp only)

theorem producerClaim_calm {s t : State} {p : Producer} {c : Claim} (hr : Calm s t) : Calm s (producerClaim p c t) := by
  unfold producerClaim
  repeat' (first | with_reducible exact hr | with_reducible apply makeClaim_calm | split | dsimp only)

theorem post_calm {s t : State} {c : Client} {r : Request} (hr : Calm s t) : Calm s (post c r t) := by
  unfold post
  repeat' (first | with_reducible exact hr | with_reducible apply withSeq_calm | rfl | split | dsimp only)

theorem setQres_calm {s t : State} {r : QRes} (hr : Calm s t) : Calm s (setQres r t) := by
  unfold setQres
  repeat' (first | with_reducible exact hr | with_reducible apply withWindow_calm | split | dsimp only)

theorem drainLeft_calm {s t : State} {q : QId} (hr : Calm s t) : Calm s (drainLeft q t) := by
  unfold drainLeft
  repeat' (first | with_reducible exact hr | with_reducible apply withLink_calm | split | dsimp only)

theorem setCommand_calm {s t : State} {r : CmdResult} (hr : Calm s t) : Calm s (setCommand r t) := by
  unfold setCommand
  repeat' (first | with_reducible exact hr | with_reducible apply withSeq_calm | rfl | split | dsimp only)

theorem setModeResult_calm {s t : State} {r : ModeResult} (hr : Calm s t) : Calm s (setModeResult r t) := by
  unfold setModeResult
  repeat' (first | with_reducible exact hr | with_reducible apply withModeCtl_calm | exact id | exact fun _ _ => rfl | split | dsimp only)

theorem windowAccess_calm {s t : State} (hr : Calm s t) : Calm s (windowAccess t) := by
  unfold windowAccess
  repeat' (first | with_reducible exact hr | with_reducible apply withWindow_calm | split | dsimp only)

theorem drive_calm {s t : State} {b : Byte} (hr : Calm s t) : Calm s (drive b t) := by
  unfold drive
  repeat' (first | with_reducible exact hr | with_reducible apply withWindow_calm | split | dsimp only)

theorem serveWaiting_calm {s t : State} (hr : Calm s t) : Calm s (serveWaiting t) := by
  unfold serveWaiting
  repeat' (first | with_reducible exact hr | with_reducible apply setStage_calm | with_reducible apply withPool_calm | split | dsimp only)

theorem poolPut_calm {s t : State} {g : Segment} (hr : Calm s t) : Calm s (poolPut g t) := by
  unfold poolPut
  repeat' (first | with_reducible exact hr | with_reducible apply serveWaiting_calm | with_reducible apply withPool_calm | split | dsimp only)

theorem poolPutSingle_calm {s t : State} {b : Nat} {p : Producer} (hr : Calm s t) : Calm s (poolPutSingle b p t) := by
  unfold poolPutSingle
  repeat' (first | with_reducible exact hr | with_reducible apply serveWaiting_calm | with_reducible apply poolPut_calm | with_reducible apply withPool_calm | split | dsimp only)

theorem releaseSingle_calm {s t : State} {b : Nat} {p : Producer} (hr : Calm s t) : Calm s (releaseSingle b p t) := by
  unfold releaseSingle
  repeat' (first | with_reducible exact hr | with_reducible apply poolPutSingle_calm | with_reducible apply withPool_calm | split | dsimp only)

theorem failAllocs_calm {s t : State} (hr : Calm s t) : Calm s (failAllocs t) := by
  have key : ∀ (l : List Producer) (u : State), Calm s u → Calm s (l.foldl (fun t p => setStage p .exhausted t) u) := by
    intro l
    induction l with
    | nil => exact fun _ h => h
    | cons p l ih => exact fun u h => ih _ (setStage_calm h)
  exact key _ _ (withPool_calm hr)

theorem poolFault_calm {s t : State} (hr : Calm s t) : Calm s (poolFault t) := by
  unfold poolFault
  repeat' (first | with_reducible exact hr | with_reducible apply raise_calm | with_reducible apply failAllocs_calm | with_reducible apply withPool_calm | with_reducible apply failAllocs_calm | split | dsimp only)

theorem fetchConfirmed_calm {s t : State} {bs : List Byte} (hr : Calm s t) : Calm s (fetchConfirmed bs t) := by
  unfold fetchConfirmed
  repeat' (first | with_reducible exact hr | with_reducible apply serveWaiting_calm | with_reducible apply poolFault_calm | with_reducible apply withPool_calm | split | dsimp only)

theorem releaseConfirmed_calm {s t : State} (hr : Calm s t) : Calm s (releaseConfirmed t) := by
  unfold releaseConfirmed
  repeat' (first | with_reducible exact hr | with_reducible apply withPool_calm | split | dsimp only)

theorem poolReset_calm {s t : State} (hr : Calm s t) : Calm s (poolReset t) := by
  unfold poolReset
  repeat' (first | with_reducible exact hr | with_reducible apply withPool_calm | split | dsimp only)

theorem pushIdle_calm {s t : State} {r : PushResult} (hr : Calm s t) : Calm s (pushIdle r t) := by
  unfold pushIdle
  repeat' (first | with_reducible exact hr | with_reducible apply withPush_calm | exact ⟨id, id⟩ | split | dsimp only)

theorem pushCancel_calm {s t : State} {r : PushResult} (hr : Calm s t) : Calm s (pushCancel r t) := by
  unfold pushCancel
  repeat' (first | with_reducible exact hr | with_reducible apply withPush_calm | exact ⟨id, id⟩ | split | dsimp only)

theorem withdrawCommit_calm {s t : State} (hr : Calm s t) : Calm s (withdrawCommit t) := by
  unfold withdrawCommit
  repeat' (first | with_reducible exact hr | with_reducible apply setQueue_calm | split | dsimp only)

theorem inboundCancel_calm {s t : State} {v : Option Verdict} (hr : Calm s t) : Calm s (inboundCancel v t) := by
  unfold inboundCancel
  repeat' (first | with_reducible exact hr | with_reducible apply withdrawCommit_calm | with_reducible apply withLink_calm | split | dsimp only)

theorem inboundReject_calm {s t : State} (hr : Calm s t) : Calm s (inboundReject t) := by
  unfold inboundReject
  repeat' (first | with_reducible exact hr | with_reducible apply inboundCancel_calm | split | dsimp only)

theorem inboundDone_calm {s t : State} (hr : Calm s t) : Calm s (inboundDone t) := by
  unfold inboundDone
  repeat' (first | with_reducible exact hr | with_reducible apply withLink_calm | split | dsimp only)

theorem refuseRecord_calm {s t : State} {p : Producer} (hr : Calm s t) : Calm s (refuseRecord p t) := by
  unfold refuseRecord
  repeat' (first | with_reducible exact hr | with_reducible apply raise_calm | with_reducible apply endStep_calm | with_reducible apply pushCancel_calm | with_reducible apply inboundReject_calm | split | dsimp only)

theorem dropRecord_calm {s t : State} {p : Producer} (hr : Calm s t) : Calm s (dropRecord p t) := by
  unfold dropRecord
  repeat' (first | with_reducible exact hr | with_reducible apply withPush_calm | with_reducible apply withLink_calm | exact ⟨id, id⟩ | split | dsimp only)

theorem cancelDone_calm {s t : State} {p : Producer} (hr : Calm s t) : Calm s (cancelDone p t) := by
  unfold cancelDone
  repeat' (first | with_reducible exact hr | with_reducible apply pushIdle_calm | with_reducible apply inboundDone_calm | split | dsimp only)

theorem writerConfirmed_calm {s t : State} {p : Producer} {u : Purpose} (hr : Calm s t) : Calm s (writerConfirmed p u t) := by
  unfold writerConfirmed
  repeat' (first | with_reducible exact hr | with_reducible apply setWriter_calm | with_reducible apply producerClaim_calm | split | dsimp only)

theorem dropOwed_calm {s t : State} {q : QId} (hr : Calm s t) : Calm s (dropOwed t q) := by
  unfold dropOwed
  repeat' (first | with_reducible exact hr | with_reducible apply setWriter_calm | split | dsimp only)

theorem discardLoop_calm {s t : State} {q : QId} {p : Producer} (hr : Calm s t) : Calm s (discardLoop q p t) := by
  unfold discardLoop
  repeat' (first | with_reducible exact hr | with_reducible apply endStep_calm | with_reducible apply refuseRecord_calm | with_reducible apply setQueue_calm | split | dsimp only)

theorem removeTaken_calm {s t : State} {c : Consumer} (hr : Calm s t) : Calm s (removeTaken c t) := by
  unfold removeTaken
  repeat' (first | with_reducible exact hr | with_reducible apply withPop_calm | with_reducible apply withLink_calm | split | dsimp only)

theorem removeRefused_calm {s t : State} {c : Consumer} (hr : Calm s t) : Calm s (removeRefused c t) := by
  unfold removeRefused
  repeat' (first | with_reducible exact hr | with_reducible apply withPop_calm | with_reducible apply withLink_calm | split | dsimp only)

theorem finishWork_calm {s t : State} {q : QId} (hr : Calm s t) : Calm s (finishWork q t) := by
  unfold finishWork
  repeat' (first | with_reducible exact hr | with_reducible apply raiseQueue_calm | with_reducible apply setStage_calm | with_reducible apply setQres_calm | with_reducible apply drainLeft_calm | with_reducible apply cancelDone_calm | with_reducible apply dropOwed_calm | with_reducible apply discardLoop_calm | with_reducible apply removeTaken_calm | with_reducible apply setQueue_calm | split | dsimp only)

theorem tryWork_calm {s t : State} {q : QId} (hr : Calm s t) : Calm s (tryWork q t) := by
  unfold tryWork
  repeat' (first | with_reducible exact hr | with_reducible apply poolPut_calm | with_reducible apply finishWork_calm | with_reducible apply withPool_calm | with_reducible apply setQueue_calm | split | dsimp only)

theorem beginWork_calm {s t : State} {q : QId} {w : Work} (hr : Calm s t) : Calm s (beginWork q w t) := by
  unfold beginWork
  repeat' (first | with_reducible exact hr | with_reducible apply tryWork_calm | with_reducible apply setQueue_calm | split | dsimp only)

theorem takeFront_calm {s t : State} (hr : Calm s t) : Calm s (takeFront t) := by
  unfold takeFront
  repeat' (first | with_reducible exact hr | with_reducible apply poolPut_calm | with_reducible apply poolPutSingle_calm | with_reducible apply finishWork_calm | with_reducible apply withPool_calm | split | dsimp only)

theorem workDropped_calm {s t : State} {q : QId} (hr : Calm s t) : Calm s (workDropped q t) := by
  unfold workDropped
  repeat' (first | with_reducible exact hr | with_reducible apply setQres_calm | with_reducible apply removeRefused_calm | split | dsimp only)

theorem faultClaim_calm {s t : State} {q : QId} (hr : Calm s t) : Calm s (faultClaim q t) := by
  unfold faultClaim
  repeat' (first | with_reducible exact hr | with_reducible apply raiseQueue_calm | with_reducible apply dropRecord_calm | with_reducible apply workDropped_calm | with_reducible apply withPool_calm | with_reducible apply setQueue_calm | split | dsimp only)

theorem reinitQueues_calm {s t : State} (hr : Calm s t) : Calm s (reinitQueues t) := by
  unfold reinitQueues
  repeat' (first | with_reducible exact hr | with_reducible apply withLink_calm | with_reducible apply withEvents_calm | with_reducible apply withQueues_calm | exact id | split | dsimp only)

theorem discardConfirmed_calm {s t : State} {q : QId} {d : Discard} {u : Purpose} {bs : List Byte} (hr : Calm s t) : Calm s (discardConfirmed q d u bs t) := by
  unfold discardConfirmed
  repeat' (first | with_reducible exact hr | with_reducible apply beginWork_calm | with_reducible apply faultClaim_calm | with_reducible apply setQueue_calm | split | dsimp only)

theorem discardDelivered_calm {s t : State} {p : Producer} {u : Purpose} {bs : List Byte} (hr : Calm s t) : Calm s (discardDelivered p u bs t) := by
  unfold discardDelivered
  repeat' (first | with_reducible exact hr | with_reducible apply discardConfirmed_calm | split | dsimp only)

theorem popChainFault_calm {s t : State} (hr : Calm s t) : Calm s (popChainFault t) := by
  unfold popChainFault
  repeat' (first | with_reducible exact hr | with_reducible apply faultClaim_calm | with_reducible apply withPop_calm | split | dsimp only)

theorem disownPins_calm {s t : State} {q : QId} (hr : Calm s t) : Calm s (disownPins q t) := by
  unfold disownPins
  repeat' (first | with_reducible exact hr | with_reducible apply setQueue_calm | split | dsimp only)

theorem popReturned_calm {s t : State} (hr : Calm s t) : Calm s (popReturned t) := by
  unfold popReturned
  repeat' (first | with_reducible exact hr | with_reducible apply makeClaim_calm | with_reducible apply disownPins_calm | with_reducible apply withPop_calm | split | dsimp only)

theorem popAbort_calm {s t : State} (hr : Calm s t) : Calm s (popAbort t) := by
  unfold popAbort
  repeat' (first | with_reducible exact hr | with_reducible apply popReturned_calm | split | dsimp only)

theorem setPopResult_calm {s t : State} {r : PopResult} (hr : Calm s t) : Calm s (setPopResult r t) := by
  unfold setPopResult
  repeat' (first | with_reducible exact hr | with_reducible apply withPop_calm | split | dsimp only)

theorem popSelect_calm {s t : State} {q : QId} (hr : Calm s t) : Calm s (popSelect q t) := by
  unfold popSelect
  repeat' (first | with_reducible exact hr | with_reducible apply makeClaim_calm | with_reducible apply setPopResult_calm | with_reducible apply withPop_calm | split | dsimp only)

theorem popRelease_calm {s t : State} (hr : Calm s t) : Calm s (popRelease t) := by
  unfold popRelease
  repeat' (first | with_reducible exact hr | with_reducible apply setPopResult_calm | with_reducible apply withPop_calm | split | dsimp only)

theorem popReturn_calm {s t : State} (hr : Calm s t) : Calm s (popReturn t) := by
  unfold popReturn
  repeat' (first | with_reducible exact hr | with_reducible apply popReturned_calm | with_reducible apply setPopResult_calm | split | dsimp only)

theorem popRewind_calm {s t : State} (hr : Calm s t) : Calm s (popRewind t) := by
  unfold popRewind
  repeat' (first | with_reducible exact hr | with_reducible apply setPopResult_calm | with_reducible apply withPop_calm | split | dsimp only)

theorem popControl_calm {s t : State} {code : Byte} (hr : Calm s t) : Calm s (popControl code t) := by
  unfold popControl
  repeat' (first | with_reducible exact hr | with_reducible apply setPopResult_calm | with_reducible apply popSelect_calm | with_reducible apply popRelease_calm | with_reducible apply popReturn_calm | with_reducible apply popRewind_calm | split | dsimp only)

theorem popRead_calm {s t : State} (hr : Calm s t) : Calm s (popRead t) := by
  unfold popRead
  repeat' (first | with_reducible exact hr | with_reducible apply raise_calm | with_reducible apply withPop_calm | split | dsimp only)

theorem popHeader_calm {s t : State} {bs : List Byte} (hr : Calm s t) : Calm s (popHeader bs t) := by
  unfold popHeader
  repeat' (first | with_reducible exact hr | with_reducible apply popChainFault_calm | with_reducible apply withPop_calm | split | dsimp only)

theorem popConfirmed_calm {s t : State} {u : Purpose} {bs : List Byte} (hr : Calm s t) : Calm s (popConfirmed u bs t) := by
  unfold popConfirmed
  repeat' (first | with_reducible exact hr | with_reducible apply popChainFault_calm | with_reducible apply popHeader_calm | with_reducible apply withPop_calm | split | dsimp only)

theorem setLinkResult_calm {s t : State} {r : LinkResult} (hr : Calm s t) : Calm s (setLinkResult r t) := by
  unfold setLinkResult
  repeat' (first | with_reducible exact hr | with_reducible apply withLink_calm | split | dsimp only)

theorem outChainFault_calm {s t : State} (hr : Calm s t) : Calm s (outChainFault t) := by
  unfold outChainFault
  repeat' (first | with_reducible exact hr | with_reducible apply faultClaim_calm | with_reducible apply withLink_calm | split | dsimp only)

theorem outHeader_calm {s t : State} {bs : List Byte} (hr : Calm s t) : Calm s (outHeader bs t) := by
  unfold outHeader
  repeat' (first | with_reducible exact hr | with_reducible apply outChainFault_calm | with_reducible apply withLink_calm | split | dsimp only)

theorem limitHold_calm {s t : State} {q : QId} (hr : Calm s t) : Calm s (limitHold q t) := by
  unfold limitHold
  repeat' (first | with_reducible exact hr | with_reducible apply raise_calm | with_reducible apply withLink_calm | with_reducible apply withEvents_calm | with_reducible apply setQueue_calm | exact id | split | dsimp only)

theorem flagWritten_calm {s t : State} (hr : Calm s t) : Calm s (flagWritten t) := by
  unfold flagWritten
  repeat' (first | with_reducible exact hr | with_reducible apply makeClaim_calm | with_reducible apply setLinkResult_calm | with_reducible apply limitHold_calm | with_reducible apply withLink_calm | split | dsimp only)

theorem outConfirmed_calm {s t : State} {u : Purpose} {bs : List Byte} (hr : Calm s t) : Calm s (outConfirmed u bs t) := by
  unfold outConfirmed
  repeat' (first | with_reducible exact hr | with_reducible apply outChainFault_calm | with_reducible apply outHeader_calm | with_reducible apply flagWritten_calm | with_reducible apply withLink_calm | split | dsimp only)

theorem lackRise_calm {s t : State} (hr : Calm s t) : Calm s (lackRise t) := by
  unfold lackRise
  repeat' (first | with_reducible exact hr | with_reducible apply withLink_calm | split | dsimp only)

theorem peerAccept_calm {s t : State} (hr : Calm s t) : Calm s (peerAccept t) := by
  unfold peerAccept
  repeat' (first | with_reducible exact hr | with_reducible apply withLink_calm | split | dsimp only)

theorem peerReject_calm {s t : State} (hr : Calm s t) : Calm s (peerReject t) := by
  unfold peerReject
  repeat' (first | with_reducible exact hr | with_reducible apply withLink_calm | split | dsimp only)

theorem lackFall_calm {s t : State} (hr : Calm s t) : Calm s (lackFall t) := by
  unfold lackFall
  repeat' (first | with_reducible exact hr | with_reducible apply withLink_calm | split | dsimp only)

theorem inboundBegin_calm {s t : State} (hr : Calm s t) : Calm s (inboundBegin t) := by
  unfold inboundBegin
  repeat' (first | with_reducible exact hr | with_reducible apply makeClaim_calm | with_reducible apply withLink_calm | split | dsimp only)

theorem payloadByte_calm {s t : State} {b : Byte} {declared : Nat} (hr : Calm s t) : Calm s (payloadByte b declared t) := by
  unfold payloadByte
  repeat' (first | with_reducible exact hr | with_reducible apply inboundReject_calm | with_reducible apply withLink_calm | split | dsimp only)

theorem frameData_calm {s t : State} {b : Byte} (hr : Calm s t) : Calm s (frameData b t) := by
  unfold frameData
  repeat' (first | with_reducible exact hr | with_reducible apply inboundReject_calm | with_reducible apply payloadByte_calm | with_reducible apply withLink_calm | split | dsimp only)

theorem receiveData_calm {s t : State} {b : Byte} (hr : Calm s t) : Calm s (receiveData b t) := by
  unfold receiveData
  repeat' (first | with_reducible exact hr | with_reducible apply frameData_calm | with_reducible apply withLink_calm | split | dsimp only)

theorem receiveEnd_calm {s t : State} (hr : Calm s t) : Calm s (receiveEnd t) := by
  unfold receiveEnd
  repeat' (first | with_reducible exact hr | with_reducible apply inboundReject_calm | with_reducible apply withLink_calm | split | dsimp only)

theorem receiveAbort_calm {s t : State} (hr : Calm s t) : Calm s (receiveAbort t) := by
  unfold receiveAbort
  repeat' (first | with_reducible exact hr | with_reducible apply inboundCancel_calm | with_reducible apply withLink_calm | split | dsimp only)

theorem strayByte_calm {s t : State} (hr : Calm s t) : Calm s (strayByte t) := by
  unfold strayByte
  repeat' (first | with_reducible exact hr | with_reducible apply raise_calm | with_reducible apply withLink_calm | split | dsimp only)

theorem frameBegins_calm {s t : State} (hr : Calm s t) : Calm s (frameBegins t) := by
  unfold frameBegins
  repeat' (first | with_reducible exact hr | with_reducible apply inboundBegin_calm | with_reducible apply withLink_calm | split | dsimp only)

theorem tooLateByte_calm {s t : State} {control : Bool} {b : Byte} (hr : Calm s t) : Calm s (tooLateByte control b t) := by
  unfold tooLateByte
  repeat' (first | with_reducible exact hr | with_reducible apply strayByte_calm | with_reducible apply withLink_calm | split | dsimp only)

theorem receivingByte_calm {s t : State} {control : Bool} {b : Byte} (hr : Calm s t) : Calm s (receivingByte control b t) := by
  unfold receivingByte
  repeat' (first | with_reducible exact hr | with_reducible apply receiveData_calm | with_reducible apply receiveEnd_calm | with_reducible apply receiveAbort_calm | with_reducible apply strayByte_calm | split | dsimp only)

theorem lstbRise_calm {s t : State} {control : Bool} {b : Byte} (hr : Calm s t) : Calm s (lstbRise control b t) := by
  unfold lstbRise
  repeat' (first | with_reducible exact hr | with_reducible apply strayByte_calm | with_reducible apply frameBegins_calm | with_reducible apply tooLateByte_calm | with_reducible apply receivingByte_calm | with_reducible apply withLink_calm | split | dsimp only)

theorem lstbFall_calm {s t : State} (hr : Calm s t) : Calm s (lstbFall t) := by
  unfold lstbFall
  repeat' (first | with_reducible exact hr | with_reducible apply withLink_calm | split | dsimp only)

theorem outAbandon_calm {s t : State} (hr : Calm s t) : Calm s (outAbandon t) := by
  unfold outAbandon
  repeat' (first | with_reducible exact hr | with_reducible apply makeClaim_calm | with_reducible apply withLink_calm | split | dsimp only)

theorem inAbandon_calm {s t : State} (hr : Calm s t) : Calm s (inAbandon t) := by
  unfold inAbandon
  repeat' (first | with_reducible exact hr | with_reducible apply inboundReject_calm | with_reducible apply withLink_calm | split | dsimp only)

theorem linkStop_calm {s t : State} (hr : Calm s t) : Calm s (linkStop t) := by
  unfold linkStop
  repeat' (first | with_reducible exact hr | with_reducible apply setLinkResult_calm | with_reducible apply outAbandon_calm | with_reducible apply inAbandon_calm | with_reducible apply withLink_calm | split | dsimp only)

theorem linkTimeout_calm {s t : State} (hr : Calm s t) : Calm s (linkTimeout t) := by
  unfold linkTimeout
  repeat' (first | with_reducible exact hr | with_reducible apply raise_calm | with_reducible apply outAbandon_calm | with_reducible apply inAbandon_calm | with_reducible apply withLink_calm | split | dsimp only)

theorem linkStart_calm {s t : State} (hr : Calm s t) : Calm s (linkStart t) := by
  unfold linkStart
  repeat' (first | with_reducible exact hr | with_reducible apply setLinkResult_calm | with_reducible apply withLink_calm | split | dsimp only)

theorem linkControl_calm {s t : State} {code : Byte} (hr : Calm s t) : Calm s (linkControl code t) := by
  unfold linkControl
  repeat' (first | with_reducible exact hr | with_reducible apply setLinkResult_calm | with_reducible apply linkStop_calm | with_reducible apply linkStart_calm | split | dsimp only)

theorem lreqRise_calm {s t : State} (hr : Calm s t) : Calm s (lreqRise t) := by
  unfold lreqRise
  repeat' (first | with_reducible exact hr | with_reducible apply withLink_calm | split | dsimp only)

theorem lreqFall_calm {s t : State} (hr : Calm s t) : Calm s (lreqFall t) := by
  unfold lreqFall
  repeat' (first | with_reducible exact hr | with_reducible apply withLink_calm | split | dsimp only)

theorem timedOut_calm {s t : State} (hr : Calm s t) : Calm s (timedOut t) := by
  unfold timedOut
  repeat' (first | with_reducible exact hr | with_reducible apply linkTimeout_calm | split | dsimp only)

theorem idleGrantOver_calm {s t : State} (hr : Calm s t) : Calm s (idleGrantOver t) := by
  unfold idleGrantOver
  repeat' (first | with_reducible exact hr | with_reducible apply withLink_calm | split | dsimp only)

theorem formatCompleted_calm {s t : State} (hr : Calm s t) : Calm s (formatCompleted t) := by
  unfold formatCompleted
  repeat' (first | with_reducible exact hr | with_reducible apply raise_calm | with_reducible apply clear_calm | with_reducible apply poolFault_calm | with_reducible apply reinitQueues_calm | with_reducible apply withPool_calm | with_reducible apply withModeCtl_calm | exact id | exact fun _ _ => rfl | split | dsimp only)

theorem formatConfirmed_calm {s t : State} (hr : Calm s t) : Calm s (formatConfirmed t) := by
  unfold formatConfirmed
  repeat' (first | with_reducible exact hr | with_reducible apply formatCompleted_calm | with_reducible apply withPool_calm | split | dsimp only)

theorem poolConfirmed_calm {s t : State} {u : Purpose} {bs : List Byte} (hr : Calm s t) : Calm s (poolConfirmed u bs t) := by
  unfold poolConfirmed
  repeat' (first | with_reducible exact hr | with_reducible apply fetchConfirmed_calm | with_reducible apply releaseConfirmed_calm | with_reducible apply formatConfirmed_calm | split | dsimp only)

theorem producerConfirmed_calm {s t : State} {p : Producer} {u : Purpose} {bs : List Byte} (hr : Calm s t) : Calm s (producerConfirmed p u bs t) := by
  unfold producerConfirmed
  repeat' (first | with_reducible exact hr | with_reducible apply writerConfirmed_calm | with_reducible apply discardDelivered_calm | split | dsimp only)

theorem deliver_calm {s t : State} {c : Client} {u : Purpose} {bs : List Byte} (hr : Calm s t) : Calm s (deliver c u bs t) := by
  unfold deliver
  repeat' (first | with_reducible exact hr | with_reducible apply popConfirmed_calm | with_reducible apply outConfirmed_calm | with_reducible apply poolConfirmed_calm | with_reducible apply producerConfirmed_calm | split | dsimp only)

theorem takeHandovers_calm (n : Nat) {s t : State} (hr : Calm s t) : Calm s (takeHandovers n t) := by
  induction n generalizing t with
  | zero => exact hr
  | succ n ih =>
    unfold takeHandovers
    split
    · exact hr
    · exact ih (takeFront_calm hr)

theorem poolLeaves_calm {s t : State} {x : PoolState} (hr : Calm s t) : Calm s (poolLeaves x t) := by
  unfold poolLeaves
  repeat' (first | with_reducible exact hr | with_reducible apply takeHandovers_calm | with_reducible apply withPool_calm | split | dsimp only)

theorem takeHandovers_reacts (n : Nat) {s t : State} (hr : Reaction s t) : Reaction s (takeHandovers n t) := by
  induction n generalizing t with
  | zero => exact hr
  | succ n ih =>
    unfold takeHandovers
    split
    · exact hr
    · exact ih (takeFront_reacts hr)

theorem formatBegins_calm {s t : State} (hr : Calm s t) : Calm s (formatBegins t) := by
  unfold formatBegins
  split
  · exact setCommand_calm hr
  · next m =>
    split
    · exact setCommand_calm hr
    · refine setCommand_calm (withModeCtl_calm (withPool_calm (failAllocs_calm (poolLeaves_calm hr))) (fun h _ => h ?_))
      have r := (failAllocs_reacts (takeHandovers_reacts t.pool.waiting.length
        (withPool_reacts (x := { t.pool with state := .formatting }) (Reaction.refl t)))).mode
      rcases r with r | r
      · intro k
        exact m (fun c => absurd ((congrArg (·.mode) r).symm.trans k) (by rw [c]; decide))
      · exact absurd r.1 (fun k => m (fun c => absurd (k.symm.trans c) (by decide)))

theorem modeTaken_calm {s t : State} {m : Mode} {stop : Option Stop} (hr : Calm s t) (e : m ≠ .stopping → stop = none) :
    Calm s (modeTaken m stop t) := withModeCtl_calm hr (fun _ => e)

theorem requestRun_calm {s t : State} (hr : Calm s t) : Calm s (requestRun t) := by
  unfold requestRun
  repeat' (first | with_reducible exact hr | with_reducible apply setModeResult_calm | with_reducible apply modeTaken_calm | exact fun _ => rfl | (intro h; exact absurd rfl h) | split | dsimp only)

theorem requestStop_calm {s t : State} (hr : Calm s t) : Calm s (requestStop t) := by
  unfold requestStop
  repeat' (first | with_reducible exact hr | with_reducible apply setModeResult_calm | with_reducible apply modeTaken_calm | (intro h; exact absurd rfl h) | split | dsimp only)

theorem pushAbort_calm {s t : State} (hr : Calm s t) : Calm s (pushAbort t) := by
  unfold pushAbort
  repeat' (first | with_reducible exact hr | with_reducible apply pushCancel_calm | split | dsimp only)

theorem abortActions_calm {s t : State} (hr : Calm s t) : Calm s (abortActions t) := by
  unfold abortActions
  repeat' (first | with_reducible exact hr | with_reducible apply popAbort_calm | with_reducible apply linkStop_calm | with_reducible apply pushAbort_calm | split | dsimp only)

theorem requestAbort_calm {s t : State} (hr : Calm s t) : Calm s (requestAbort t) := by
  unfold requestAbort
  repeat' (first | with_reducible exact hr | with_reducible apply setModeResult_calm | with_reducible apply modeTaken_calm | with_reducible apply abortActions_calm | (intro h; exact absurd rfl h) | split | dsimp only)

theorem fetchPage_calm {s t : State} {p : Page} (hr : Calm s t) : Calm s (fetchPage p t) := by
  unfold fetchPage
  repeat' (first | with_reducible exact hr | with_reducible apply setQres_calm | with_reducible apply withWindow_calm | split | dsimp only)

theorem storeConfig_calm {s t : State} {x : Queue} {q : QId} {b : Bool} {y : Queue} (hr : Calm s t) :
    Calm s (storeConfig x q b y t).2 := by
  unfold storeConfig
  repeat' (first | with_reducible exact hr | with_reducible exact setQueue_calm hr | split)

theorem storeParameter_calm {s t : State} {y : Option Link} (hr : Calm s t) : Calm s (storeParameter y t).2 := by
  unfold storeParameter
  repeat' (first | with_reducible exact hr | with_reducible exact withLink_calm hr | split)

theorem storeShape_calm {s t : State} {y : Option Seq} (hr : Calm s t) (h : ∀ x, y = some x → seqView x = seqView t.seq) :
    Calm s (storeShape y t).2 := by
  unfold storeShape
  repeat' (first | with_reducible exact hr | split)
  · next x => exact withSeq_calm hr (h x rfl)

theorem changedConfig_view {x y : Seq} {b : Bool} {c : ArrayConfig} (h : changedConfig x b c = some y) :
    seqView y = seqView x := by
  unfold changedConfig at h
  split at h
  · exact (Option.some.inj h) ▸ rfl
  · exact nomatch h

theorem closedConfig_view {x y : Seq} {b : Bool} {c : ArrayConfig} (h : (changedConfig x b c).map closeBanks = some y) :
    seqView y = seqView x := by
  obtain ⟨z, hz, e⟩ := Option.map_eq_some_iff.1 h
  exact e ▸ changedConfig_view (y := z) hz

theorem storePrescale_calm {s t : State} {v : Nat} (hr : Calm s t) : Calm s (storePrescale v t).2 := by
  unfold storePrescale
  repeat' (first | with_reducible exact hr | with_reducible exact withStamp_calm hr | split)

theorem ownerStore_calm {s t u : State} {p : Page} {f v : Nat} {r : QRes} (hr : Calm s t)
    (e : ownerStore p f v t = some (r, u)) : Calm s u := by
  have key : ∀ x : Stored, ownerStore p f v t = some x → Calm s x.2 := by
    intro x h
    unfold ownerStore at h
    split at h
    · unfold storeQueue at h
      dsimp only at h
      split at h
      all_goals first | contradiction | (simp only [Option.some.injEq] at h; subst h)
      all_goals first | with_reducible exact hr | with_reducible exact storeConfig_calm hr | skip
      · split
        · exact setQueue_calm hr
        · exact hr
      · exact setQueue_calm hr
    · unfold storeLink at h
      dsimp only at h
      split at h
      all_goals first | contradiction | (simp only [Option.some.injEq] at h; subst h)
      all_goals first | with_reducible exact hr | with_reducible exact storeParameter_calm hr | exact withLink_calm hr
    · unfold storeArray at h
      dsimp only at h
      split at h
      all_goals first | contradiction | (simp only [Option.some.injEq] at h; subst h)
      all_goals first
        | with_reducible exact hr
        | with_reducible exact storePrescale_calm hr
        | exact storeShape_calm hr (fun _ k => changedConfig_view k)
        | exact storeShape_calm hr (fun _ k => closedConfig_view k)
  exact key _ e

theorem storePage_calm {s t : State} {p : Page} (hr : Calm s t) : Calm s (storePage p t) := by
  unfold storePage
  split
  · exact setQres_calm hr
  · next e => exact setQres_calm (ownerStore_calm hr e)

theorem pushProtocol_calm {s t : State} (hr : Calm s t) : Calm s (pushProtocol t) := by
  unfold pushProtocol
  repeat' (first | with_reducible exact hr | with_reducible apply raise_calm | split | dsimp only)

theorem pushRepeat_calm {s t : State} {n : Nat} (hr : Calm s t) : Calm s (pushRepeat n t) := by
  unfold pushRepeat
  repeat' (first | with_reducible exact hr | with_reducible apply pushProtocol_calm | with_reducible apply withPush_calm | exact ⟨id, fun _ => rfl⟩ | exact ⟨id, id⟩ | split | dsimp only)

theorem pushEnd_calm {s t : State} (hr : Calm s t) : Calm s (pushEnd t) := by
  unfold pushEnd
  repeat' (first | with_reducible exact hr | with_reducible apply pushProtocol_calm | with_reducible apply withPush_calm | exact ⟨id, id⟩ | split | dsimp only)

theorem pushCancelled_calm {s t : State} (hr : Calm s t) : Calm s (pushCancelled t) := by
  unfold pushCancelled
  repeat' (first | with_reducible exact hr | with_reducible apply pushCancel_calm | with_reducible apply pushProtocol_calm | split | dsimp only)

theorem pushOverrun_calm {s t : State} (hr : Calm s t) : Calm s (pushOverrun t) := by
  unfold pushOverrun
  repeat' (first | with_reducible exact hr | with_reducible apply raise_calm | with_reducible apply withPush_calm | exact ⟨fun _ => rfl, id⟩ | exact ⟨id, id⟩ | split | dsimp only)

theorem pushTooLong_calm {s t : State} (hr : Calm s t) : Calm s (pushTooLong t) := by
  unfold pushTooLong
  repeat' (first | with_reducible exact hr | with_reducible apply raise_calm | with_reducible apply pushCancel_calm | split | dsimp only)

theorem pushPayload_calm {s t : State} {b : Byte} (hr : Calm s t) : Calm s (pushPayload b t) := by
  unfold pushPayload
  repeat' (first | with_reducible exact hr | with_reducible apply pushOverrun_calm | with_reducible apply pushTooLong_calm | with_reducible apply withPush_calm | exact ⟨id, id⟩ | exact ⟨id, id⟩ | split | dsimp only)

theorem pushData_calm {s t : State} {b : Byte} (hr : Calm s t) : Calm s (pushData b t) := by
  unfold pushData
  repeat' (first | with_reducible exact hr | with_reducible apply pushProtocol_calm | with_reducible apply pushPayload_calm | with_reducible apply withPush_calm | exact ⟨id, id⟩ | split | dsimp only)

theorem readPstat_calm {s t : State} (hr : Calm s t) : Calm s (readPstat t) := by
  unfold readPstat
  repeat' (first | with_reducible exact hr | with_reducible apply withWindow_calm | split | dsimp only)

theorem readData_calm {s t : State} (hr : Calm s t) : Calm s (readData t) := by
  unfold readData
  repeat' (first | with_reducible exact hr | with_reducible apply windowAccess_calm | with_reducible apply drive_calm | with_reducible apply popRead_calm | split | dsimp only)

theorem pageCommand_calm {s t : State} {f : Page → State → State} (h : ∀ p u, Calm s u → Calm s (f p u)) (hr : Calm s t) :
    Calm s (pageCommand f t) := by
  unfold pageCommand
  repeat' (first | with_reducible exact hr | with_reducible exact h _ _ hr | with_reducible apply setQres_calm | split)

theorem queueCommand_calm {s t : State} {f : QId → State → State} (h : ∀ q u, Calm s u → Calm s (f q u)) (hr : Calm s t) :
    Calm s (queueCommand f t) := by
  unfold queueCommand
  repeat' (first | with_reducible exact hr | with_reducible exact h _ _ hr | with_reducible apply setQres_calm | split)

theorem answerCommand_calm {s t : State} {q : QId} {refusal : Option QRes} {y : Queue} (hr : Calm s t) : Calm s (answerCommand q refusal y t) := by
  unfold answerCommand
  repeat' (first | with_reducible exact hr | with_reducible apply setQres_calm | with_reducible apply setQueue_calm | split | dsimp only)

theorem enableQueue_calm {s t : State} {q : QId} (hr : Calm s t) : Calm s (enableQueue q t) := by
  unfold enableQueue
  repeat' (first | with_reducible exact hr | with_reducible apply answerCommand_calm | split | dsimp only)

theorem disableQueue_calm {s t : State} {q : QId} (hr : Calm s t) : Calm s (disableQueue q t) := by
  unfold disableQueue
  repeat' (first | with_reducible exact hr | with_reducible apply answerCommand_calm | split | dsimp only)

theorem holdQueue_calm {s t : State} {q : QId} (hr : Calm s t) : Calm s (holdQueue q t) := by
  unfold holdQueue
  repeat' (first | with_reducible exact hr | with_reducible apply answerCommand_calm | split | dsimp only)

theorem resumeQueue_calm {s t : State} {q : QId} (hr : Calm s t) : Calm s (resumeQueue q t) := by
  unfold resumeQueue
  repeat' (first | with_reducible exact hr | with_reducible apply answerCommand_calm | split | dsimp only)

theorem flushQueue_calm {s t : State} {q : QId} (hr : Calm s t) : Calm s (flushQueue q t) := by
  unfold flushQueue
  repeat' (first | with_reducible exact hr | with_reducible apply setQres_calm | with_reducible apply beginWork_calm | split | dsimp only)

theorem clearFault_calm {s t : State} {q : QId} (hr : Calm s t) : Calm s (clearFault q t) := by
  unfold clearFault
  repeat' (first | with_reducible exact hr | with_reducible apply clearQueue_calm | with_reducible apply setQres_calm | with_reducible apply drainLeft_calm | with_reducible apply setQueue_calm | split | dsimp only)

theorem queueControl_calm {s t : State} {code : Byte} (hr : Calm s t) : Calm s (queueControl code t) := by
  unfold queueControl
  repeat' (first | with_reducible exact hr | (with_reducible apply pageCommand_calm; intro _ _ _) | (with_reducible apply queueCommand_calm; intro _ _ _) | (with_reducible apply fetchPage_calm; assumption) | (with_reducible apply storePage_calm; assumption) | (with_reducible apply enableQueue_calm; assumption) | (with_reducible apply disableQueue_calm; assumption) | (with_reducible apply holdQueue_calm; assumption) | (with_reducible apply resumeQueue_calm; assumption) | (with_reducible apply flushQueue_calm; assumption) | (with_reducible apply clearFault_calm; assumption) | with_reducible apply setQres_calm | split)

theorem report_calm {s t : State} {code : Byte} {queue : Byte} (hr : Calm s t) : Calm s (report code queue t) := by
  unfold report
  repeat' (first | with_reducible exact hr | with_reducible apply withEvents_calm | exact id | split | dsimp only)

theorem clearReported_calm {s t : State} {c : Cause} (hr : Calm s t) : Calm s (clearReported c t) := by
  unfold clearReported
  repeat' (first | with_reducible exact hr | with_reducible apply clear_calm | split | dsimp only)

theorem readEvid_calm {s t : State} (hr : Calm s t) : Calm s (readEvid t) := by
  unfold readEvid
  repeat' (first | with_reducible exact hr | with_reducible apply drive_calm | with_reducible apply report_calm | with_reducible apply clearReported_calm | split | dsimp only)

theorem readEvq_calm {s t : State} (hr : Calm s t) : Calm s (readEvq t) := by
  unfold readEvq
  repeat' (first | with_reducible exact hr | with_reducible apply drive_calm | with_reducible apply withEvents_calm | exact id | split | dsimp only)

theorem evenKept_legal (v : Byte) : evenKept v &&& 0x60 = 0 := by
  unfold evenKept
  rw [BitVec.and_assoc]
  exact BitVec.and_zero

theorem writeEven_calm {s t : State} {v : Byte} (hr : Calm s t) : Calm s (writeEven v t) :=
  withEvents_calm hr (fun _ => evenKept_legal v)

theorem acknowledge_calm {s t : State} {code : Byte} (hr : Calm s t) : Calm s (acknowledge code t) := by
  unfold acknowledge
  repeat' (first | with_reducible exact hr | with_reducible apply clear_calm | with_reducible apply clearQueue_calm | split | dsimp only)

theorem readLstat_calm {s t : State} (hr : Calm s t) : Calm s (readLstat t) := by
  unfold readLstat
  repeat' (first | with_reducible exact hr | with_reducible apply withWindow_calm | split | dsimp only)

theorem stampCleared_calm {s t : State} (hr : Calm s t) : Calm s (stampCleared t) := by
  unfold stampCleared
  repeat' (first | with_reducible exact hr | with_reducible apply setCommand_calm | with_reducible apply withStamp_calm | split | dsimp only)

theorem stampTicked_calm {s t : State} (hr : Calm s t) : Calm s (stampTicked t) := by
  unfold stampTicked
  repeat' (first | with_reducible exact hr | with_reducible apply withStamp_calm | split | dsimp only)

end Sys2Proof.Machine
end

