-- ==== Sys2Proof/Laws/Claims.lean ====
section
/-! SUPPORT. What a queue's work does at the event it begins (02 R24, R25): it waits for an owed link word, waits for the
pool, or is finished, on the state as it stands or as the pool's taking of the segment leaves it. -/

namespace Sys2Proof.Machine

/-! ### Writers -/

@[simp] theorem writer_setQueue (s : State) (q : QId) (x : Queue) (p : Producer) : (s.setQueue q x).writer p = s.writer p := by
  cases p <;> rfl

@[simp] theorem writer_withPool (s : State) (x : Pool) (p : Producer) : (s.withPool x).writer p = s.writer p := by
  cases p <;> rfl

@[simp] theorem writer_setWriter (s : State) (p : Producer) (w : Writer) : (s.setWriter p w).writer p = w := by
  cases p <;> rfl

@[simp] theorem setWriter_queue (s : State) (p : Producer) (w : Writer) (q : QId) : (s.setWriter p w).queue q = s.queue q := by
  cases p <;> rfl

@[simp] theorem setWriter_pool (s : State) (p : Producer) (w : Writer) : (s.setWriter p w).pool = s.pool := by
  cases p <;> rfl

theorem slotHolds_setQueue (s : State) (q : QId) (x : Queue) (c : Client) (u : Purpose) :
    slotHolds (s.setQueue q x) c u = slotHolds s c u := rfl

/-! ### The pool takes a segment -/

theorem serveWaiting_shape (s : State) :
    serveWaiting s = s ∨ ∃ x p st, serveWaiting s = (s.withPool x).setWriter p { s.writer p with step := st } := by
  unfold serveWaiting
  split
  · next p rest c more _ _ =>
      refine Or.inr ⟨{ s.pool with cache := promiseTop p s.pool.cache, waitingAllocs := rest }, p,
        (s.writer p).step.map (fun b => { b with stage := .granted c.block }), ?_⟩
      cases p <;> rfl
  · exact Or.inl rfl

/-- All that the pool's taking of a segment can change: the pool itself, and the block step of one producer. -/
theorem poolPut_shape (g : Segment) (s : State) :
    ∃ x, poolPut g s = s.withPool x ∨ ∃ p st, poolPut g s = (s.withPool x).setWriter p { s.writer p with step := st } := by
  unfold poolPut
  split
  · exact ⟨s.pool, Or.inl rfl⟩
  · split
    · rcases serveWaiting_shape (s.withPool { s.pool with cache := { block := g.first, promised := none } :: s.pool.cache })
        with h | ⟨x, p, st, h⟩
      · exact ⟨_, Or.inl h⟩
      · refine ⟨x, Or.inr ⟨p, st, ?_⟩⟩
        rw [h, writer_withPool]
        cases p <;> rfl
    · exact ⟨_, Or.inl rfl⟩

@[simp] theorem poolPut_queue (g : Segment) (s : State) (q : QId) : (poolPut g s).queue q = s.queue q := by
  rcases poolPut_shape g s with ⟨x, h | ⟨p, st, h⟩⟩ <;> rw [h]
  · rfl
  · cases p <;> rfl

theorem poolPut_header (g : Segment) (s : State) (p : Producer) : ((poolPut g s).writer p).header = (s.writer p).header := by
  rcases poolPut_shape g s with ⟨x, h | ⟨p', st, h⟩⟩ <;> rw [h]
  · rw [writer_withPool]
  · cases p <;> cases p' <;> rfl

theorem poolPut_owed (g : Segment) (s : State) (p : Producer) : ((poolPut g s).writer p).owed = (s.writer p).owed := by
  rcases poolPut_shape g s with ⟨x, h | ⟨p', st, h⟩⟩ <;> rw [h]
  · rw [writer_withPool]
  · cases p <;> cases p' <;> rfl

theorem poolPut_last (g : Segment) (s : State) : (poolPut g s).push.last = s.push.last := by
  rcases poolPut_shape g s with ⟨x, h | ⟨p', st, h⟩⟩ <;> rw [h]
  · rfl
  · cases p' <;> rfl

/-! ### The work's segment -/

theorem openHeader_poolPut (g : Segment) (s : State) (x : Queue) : openHeader (poolPut g s) x = openHeader s x := by
  unfold openHeader
  split
  · rfl
  · exact poolPut_header g s _

theorem openHeader_setQueue (s : State) (q : QId) (y x : Queue) : openHeader (s.setQueue q y) x = openHeader s x := by
  unfold openHeader
  split
  · rfl
  · rw [writer_setQueue]

theorem workSegment_poolPut (g : Segment) (s : State) (q : QId) : workSegment (poolPut g s) q = workSegment s q := by
  simp only [workSegment, poolPut_queue, openHeader_poolPut]

/-- 02 R24: the handover waits for a link word exactly where the open record's producer owes the word of the segment's last
block and has posted it. -/
theorem owedPosted_iff (s : State) (q : QId) : owedPosted s q = true ↔
    ∃ g p, workSegment s q = some g ∧ ((s.queue q).openRec = some p ∧ (s.writer p).owed.map (·.1) = some g.last)
      ∧ slotHolds s p.client .linkWord = true := by
  unfold owedPosted owesLast
  constructor
  · intro h
    split at h
    · exact absurd h (by simp)
    · next g hg =>
      split at h
      · exact absurd h (by simp)
      · next p hp =>
        split at hp
        · exact absurd hp (by simp)
        · next p' hp' =>
          split at hp
          · next ho => cases hp; exact ⟨g, p, hg, ⟨hp', ho⟩, h⟩
          · exact absurd hp (by simp)
  · rintro ⟨g, p, hg, ⟨ho, hw⟩, hs⟩
    simp only [hg, ho, hw, if_true, hs]

/-- 02 R24: the debt of the segment's last block ends with the block's departure. -/
theorem dropOwed_owed {s : State} {q : QId} {g : Segment} {p : Producer} (hg : workSegment s q = some g)
    (ho : (s.queue q).openRec = some p) (hw : (s.writer p).owed.map (·.1) = some g.last) :
    ((dropOwed s q).writer p).owed = none := by
  simp only [dropOwed, hg, owesLast, ho, hw, if_true, writer_setWriter]

@[simp] theorem dropOwed_pool (s : State) (q : QId) : (dropOwed s q).pool = s.pool := by
  unfold dropOwed; repeat' split
  all_goals first | rfl | simp

@[simp] theorem dropOwed_queue (s : State) (q r : QId) : (dropOwed s q).queue r = s.queue r := by
  unfold dropOwed; repeat' split
  all_goals first | rfl | simp

theorem dropOwed_pop (s : State) (q : QId) : (dropOwed s q).pop = s.pop := by
  unfold dropOwed; repeat' split
  all_goals first | rfl | (next p _ => cases p <;> rfl)

/-! ### The work begins -/

theorem tryWork_posted {s : State} {q : QId} (h : owedPosted s q = true) :
    tryWork q s = s.setQueue q { s.queue q with wait := .forLinkWord } := by
  unfold tryWork; rw [if_pos h]

theorem tryWork_none {s : State} {q : QId} (h : owedPosted s q = false) (hg : workSegment s q = none) :
    tryWork q s = finishWork q s := by
  unfold tryWork; rw [if_neg (by rw [h]; decide), hg]

theorem tryWork_taken {s : State} {q : QId} {g : Segment} (h : owedPosted s q = false) (hg : workSegment s q = some g)
    (ht : poolTakes g s = true) : tryWork q s = finishWork q (poolPut g s) := by
  unfold tryWork; rw [if_neg (by rw [h]; decide), hg]; exact if_pos ht

theorem tryWork_waits {s : State} {q : QId} {g : Segment} (h : owedPosted s q = false) (hg : workSegment s q = some g)
    (ht : poolTakes g s = false) :
    tryWork q s = (s.setQueue q { s.queue q with wait := .atPool }).withPool
      { s.pool with waiting := s.pool.waiting ++ [.ofQueue q] } := by
  unfold tryWork; rw [if_neg (by rw [h]; decide), hg]; exact if_neg (by rw [ht]; decide)

/-- 03 R48, R49, R52: when the pool takes a segment at this event. -/
theorem poolTakes_iff (g : Segment) (s : State) : poolTakes g s = true ↔ (s.pool.state ≠ .formatted
    ∨ g.count = 1 ∧ (s.pool.cache.length < 7 ∨ s.pool.cache.length = 7 ∧ slotHolds s .pool .fetch = false)
    ∨ s.pool.release.length < 4) := by
  have room : cacheRoom s = true
      ↔ (s.pool.cache.length < 7 ∨ s.pool.cache.length = 7 ∧ slotHolds s .pool .fetch = false) := by
    unfold cacheRoom
    cases slotHolds s .pool .fetch <;> (simp [Config.cacheBlocks]; try omega)
  simp only [poolTakes, Bool.or_eq_true, Bool.and_eq_true, bne_iff_ne, beq_iff_eq, room, releaseRoom, Config.releaseEntries,
    or_assoc]
  exact or_congr Iff.rfl (or_congr Iff.rfl decide_eq_true_iff)

/-! ### The whole effect of a cancel and of a removal -/

theorem finishWork_cancel {s : State} {q : QId} {p : Producer} (h : (s.queue q).work = .cancel p) :
    finishWork q s = cancelDone p (s.setQueue q (cancelEffect (s.queue q)).unheld) := by
  unfold finishWork; dsimp only; rw [h]

theorem finishWork_remove {s : State} {q : QId} {c : Consumer} {r : Removal} (h : (s.queue q).work = .remove c r) :
    finishWork q s = removeTaken c ((dropOwed s q).setQueue q
      { (headAdvance (s.queue q) (openHeader s (s.queue q)) r).unheld with pin := none }) := by
  unfold finishWork; dsimp only; rw [h]

@[simp] theorem cancelDone_queue (p : Producer) (s : State) (q : QId) : (cancelDone p s).queue q = s.queue q := by
  cases p <;> rfl

@[simp] theorem cancelDone_pool (p : Producer) (s : State) : (cancelDone p s).pool = s.pool := by cases p <;> rfl

theorem cancelDone_owed (p : Producer) (s : State) : ((cancelDone p s).writer p).owed = none := by cases p <;> rfl

@[simp] theorem removeTaken_queue (c : Consumer) (s : State) (q : QId) : (removeTaken c s).queue q = s.queue q := by
  cases c <;> rfl

@[simp] theorem removeTaken_pool (c : Consumer) (s : State) : (removeTaken c s).pool = s.pool := by cases c <;> rfl

@[simp] theorem removeTaken_writer (c : Consumer) (s : State) (p : Producer) : (removeTaken c s).writer p = s.writer p := by
  cases c <;> cases p <;> rfl

end Sys2Proof.Machine
end

