-- ==== Sys2Proof/Laws/Ranges.lean ====
section
/-! SUPPORT. The reactions inside one event keep every descriptor and the push context in range (`settle_inRange`):
one lemma per operation. -/

set_option linter.unreachableTactic false
set_option linter.unusedTactic false

namespace Sys2Proof.Machine

/-- What `QueueInRange` looks at. -/
def rangeView (x : Queue) : Nat × Option Producer × Nat × Nat × Nat :=
  (x.records, x.openRec, x.discards, x.blockLimit, x.watermark)

theorem QueueInRange.same {x y : Queue} (h : QueueInRange y) (e : rangeView x = rangeView y) : QueueInRange x := by
  simp only [rangeView, Prod.mk.injEq] at e
  unfold QueueInRange
  rw [e.1, e.2.1, e.2.2.1, e.2.2.2.1, e.2.2.2.2]
  exact h

/-- No open record, and no more records than before. -/
theorem QueueInRange.fewer {x y : Queue} (h : QueueInRange y) (r : x.records ≤ y.records)
    (o : x.openRec = none ∨ x.openRec = y.openRec)
    (c : (x.discards, x.blockLimit, x.watermark) = (y.discards, y.blockLimit, y.watermark)) : QueueInRange x := by
  simp only [Prod.mk.injEq] at c
  obtain ⟨a, b, d⟩ := h
  unfold QueueInRange
  rw [c.1, c.2.1, c.2.2]
  refine ⟨le_trans r a, fun n => ?_, d⟩
  rcases o with o | o
  · exact absurd o n
  · exact lt_of_le_of_lt r (b (o ▸ n))

theorem writer_inRange {s : State} {p : Producer} (h : InRange s) :
    p = .push → (s.writer p).buf.length ≤ Config.fifoBytes := fun e => e ▸ h.push.1

/-! ### The updates -/

theorem withWindow_inRange {t : State} {x : Window} (hr : InRange t) : InRange (t.withWindow x) := ⟨hr.1, hr.2⟩
theorem withEvents_inRange {t : State} {x : Events} (hr : InRange t) : InRange (t.withEvents x) := ⟨hr.1, hr.2⟩
theorem withModeCtl_inRange {t : State} {x : ModeCtl} (hr : InRange t) : InRange (t.withModeCtl x) := ⟨hr.1, hr.2⟩
theorem withPool_inRange {t : State} {x : Pool} (hr : InRange t) : InRange (t.withPool x) := ⟨hr.1, hr.2⟩
theorem withPop_inRange {t : State} {x : Pop} (hr : InRange t) : InRange (t.withPop x) := ⟨hr.1, hr.2⟩
theorem withLink_inRange {t : State} {x : Link} (hr : InRange t) : InRange (t.withLink x) := ⟨hr.1, hr.2⟩
theorem withSeq_inRange {t : State} {x : Seq} (hr : InRange t) : InRange (t.withSeq x) := ⟨hr.1, hr.2⟩
theorem withPush_inRange {t : State} {x : Push} (hr : InRange t) (e : PushInRange x) : InRange (t.withPush x) :=
  ⟨hr.1, e⟩

theorem setQueue_inRange {t : State} {q : QId} {x : Queue} (hr : InRange t) (e : QueueInRange x) :
    InRange (t.setQueue q x) := by
  refine ⟨fun r => ?_, hr.2⟩
  rw [queue_setQueue]
  split
  · exact e
  · exact hr.1 r

/-- An optional reaction keeps the ranges. -/
def KeepsRange (o : Option State) : Prop := ∀ u, o = some u → InRange u

theorem keeps_none : KeepsRange none := fun _ e => nomatch e

theorem keeps_some {t : State} (h : InRange t) : KeepsRange (some t) := fun _ e => Option.some.inj e ▸ h

theorem keeps_map {α : Type} {o : Option α} {f : α → State} (h : ∀ a, InRange (f a)) : KeepsRange (o.map f) := by
  cases o with
  | none => exact keeps_none
  | some a => exact keeps_some (h a)

theorem keeps_or {o p : Option State} (a : KeepsRange o) (b : KeepsRange p) : KeepsRange (o.or p) := by
  cases o with
  | none => exact b
  | some _ => exact a

/-! ### The operations -/

theorem setGlobal_inRange {t : State} {c : GlobalCause} {v : Bool} (hr : InRange t) : InRange (setGlobal c v t) := by
  unfold setGlobal
  repeat' (first | with_reducible exact hr | with_reducible apply withEvents_inRange | split | dsimp only)

theorem raise_inRange {t : State} {c : GlobalCause} (hr : InRange t) : InRange (raise c t) := by
  unfold raise
  repeat' (first | with_reducible exact hr | with_reducible apply setGlobal_inRange | split | dsimp only)

theorem clear_inRange {t : State} {c : GlobalCause} (hr : InRange t) : InRange (clear c t) := by
  unfold clear
  repeat' (first | with_reducible exact hr | with_reducible apply setGlobal_inRange | split | dsimp only)

theorem setQueueCause_inRange {t : State} {c : QueueCause} {q : QId} {v : Bool} (hr : InRange t) : InRange (setQueueCause c q v t) := by
  unfold setQueueCause
  repeat' (first | with_reducible exact hr | with_reducible apply withEvents_inRange | split | dsimp only)

theorem raiseQueue_inRange {t : State} {c : QueueCause} {q : QId} (hr : InRange t) : InRange (raiseQueue c q t) := by
  unfold raiseQueue
  repeat' (first | with_reducible exact hr | with_reducible apply setQueueCause_inRange | split | dsimp only)

theorem clearQueue_inRange {t : State} {c : QueueCause} {q : QId} (hr : InRange t) : InRange (clearQueue c q t) := by
  unfold clearQueue
  repeat' (first | with_reducible exact hr | with_reducible apply setQueueCause_inRange | split | dsimp only)

theorem makeClaim_inRange {t : State} {q : QId} {c : Claim} (hr : InRange t) : InRange (makeClaim q c t) := by
  unfold makeClaim
  repeat' (first | with_reducible exact hr | with_reducible apply setQueue_inRange | (refine QueueInRange.same (InRange.queues ?_ _) rfl) | split | dsimp only)

theorem setWriter_inRange {t : State} {p : Producer} {w : Writer} (hr : InRange t)
    (e : p = .push → w.buf.length ≤ Config.fifoBytes) : InRange (t.setWriter p w) := by
  cases p
  · exact withPush_inRange hr ⟨e rfl, hr.push.2⟩
  · exact withLink_inRange hr

theorem setReader_inRange {t : State} {c : Consumer} {r : Reader} (hr : InRange t) : InRange (State.setReader t c r) := by
  unfold State.setReader
  repeat' (first | with_reducible exact hr | with_reducible apply withPop_inRange | with_reducible apply withLink_inRange | split | dsimp only)

theorem setStage_inRange {t : State} {p : Producer} {g : StepStage} (hr : InRange t) : InRange (setStage p g t) := by
  unfold setStage
  repeat' (first | with_reducible exact hr | with_reducible apply setWriter_inRange | (refine writer_inRange ?_) | split | dsimp only)

theorem endStep_inRange {t : State} {p : Producer} (hr : InRange t) : InRange (endStep p t) := by
  unfold endStep
  repeat' (first | with_reducible exact hr | with_reducible apply setWriter_inRange | (refine writer_inRange ?_) | split | dsimp only)

theorem producerClaim_inRange {t : State} {p : Producer} {c : Claim} (hr : InRange t) : InRange (producerClaim p c t) := by
  unfold producerClaim
  repeat' (first | with_reducible exact hr | with_reducible apply makeClaim_inRange | split | dsimp only)

theorem consumerClaim_inRange {t : State} {c : Consumer} {x : Claim} (hr : InRange t) : InRange (consumerClaim c x t) := by
  unfold consumerClaim
  repeat' (first | with_reducible exact hr | with_reducible apply makeClaim_inRange | split | dsimp only)

theorem post_inRange {t : State} {c : Client} {r : Request} (hr : InRange t) : InRange (post c r t) := by
  unfold post
  repeat' (first | with_reducible exact hr | with_reducible apply withSeq_inRange | split | dsimp only)

theorem setQres_inRange {t : State} {r : QRes} (hr : InRange t) : InRange (setQres r t) := by
  unfold setQres
  repeat' (first | with_reducible exact hr | with_reducible apply withWindow_inRange | split | dsimp only)

theorem drainLeft_inRange {t : State} {q : QId} (hr : InRange t) : InRange (drainLeft q t) := by
  unfold drainLeft
  repeat' (first | with_reducible exact hr | with_reducible apply withLink_inRange | split | dsimp only)

theorem serveWaiting_inRange {t : State} (hr : InRange t) : InRange (serveWaiting t) := by
  unfold serveWaiting
  repeat' (first | with_reducible exact hr | with_reducible apply setStage_inRange | with_reducible apply withPool_inRange | split | dsimp only)

theorem allocate_inRange {t : State} {p : Producer} (hr : InRange t) : InRange (allocate p t) := by
  unfold allocate
  repeat' (first | with_reducible exact hr | with_reducible apply setStage_inRange | with_reducible apply withPool_inRange | split | dsimp only)

theorem poolPut_inRange {t : State} {g : Segment} (hr : InRange t) : InRange (poolPut g t) := by
  unfold poolPut
  repeat' (first | with_reducible exact hr | with_reducible apply serveWaiting_inRange | with_reducible apply withPool_inRange | split | dsimp only)

theorem poolPutSingle_inRange {t : State} {b : Nat} {p : Producer} (hr : InRange t) : InRange (poolPutSingle b p t) := by
  unfold poolPutSingle
  repeat' (first | with_reducible exact hr | with_reducible apply serveWaiting_inRange | with_reducible apply poolPut_inRange | with_reducible apply withPool_inRange | split | dsimp only)

theorem releaseSingle_inRange {t : State} {b : Nat} {p : Producer} (hr : InRange t) : InRange (releaseSingle b p t) := by
  unfold releaseSingle
  repeat' (first | with_reducible exact hr | with_reducible apply poolPutSingle_inRange | with_reducible apply withPool_inRange | split | dsimp only)

theorem cacheLeft_inRange {t : State} {b : Nat} (hr : InRange t) : InRange (cacheLeft b t) := by
  unfold cacheLeft
  repeat' (first | with_reducible exact hr | with_reducible apply withPool_inRange | split | dsimp only)

theorem pushIdle_inRange {t : State} {r : PushResult} (hr : InRange t) : InRange (pushIdle r t) := by
  unfold pushIdle
  repeat' (first | with_reducible exact hr | with_reducible apply withPush_inRange | (refine InRange.push ?_) | exact ⟨Nat.zero_le _, hr.push.2⟩ | split | dsimp only)

theorem pushCancel_inRange {t : State} {r : PushResult} (hr : InRange t) : InRange (pushCancel r t) := by
  unfold pushCancel
  repeat' (first | with_reducible exact hr | with_reducible apply withPush_inRange | (refine InRange.push ?_) | exact ⟨Nat.zero_le _, hr.push.2⟩ | split | dsimp only)

theorem withdrawCommit_inRange {t : State} (hr : InRange t) : InRange (withdrawCommit t) := by
  unfold withdrawCommit
  repeat' (first | with_reducible exact hr | with_reducible apply setQueue_inRange | (refine QueueInRange.same (InRange.queues ?_ _) rfl) | split | dsimp only)

theorem inboundCancel_inRange {t : State} {v : Option Verdict} (hr : InRange t) : InRange (inboundCancel v t) := by
  unfold inboundCancel
  repeat' (first | with_reducible exact hr | with_reducible apply withdrawCommit_inRange | with_reducible apply withLink_inRange | split | dsimp only)

theorem inboundReject_inRange {t : State} (hr : InRange t) : InRange (inboundReject t) := by
  unfold inboundReject
  repeat' (first | with_reducible exact hr | with_reducible apply inboundCancel_inRange | split | dsimp only)

theorem inboundDiscard_inRange {t : State} (hr : InRange t) : InRange (inboundDiscard t) := by
  unfold inboundDiscard
  repeat' (first | with_reducible exact hr | with_reducible apply withLink_inRange | split | dsimp only)

theorem inboundDone_inRange {t : State} (hr : InRange t) : InRange (inboundDone t) := by
  unfold inboundDone
  repeat' (first | with_reducible exact hr | with_reducible apply withLink_inRange | split | dsimp only)

theorem refuseRecord_inRange {t : State} {p : Producer} (hr : InRange t) : InRange (refuseRecord p t) := by
  unfold refuseRecord
  repeat' (first | with_reducible exact hr | with_reducible apply raise_inRange | with_reducible apply endStep_inRange | with_reducible apply pushCancel_inRange | with_reducible apply inboundReject_inRange | split | dsimp only)

theorem blockRefused_inRange {t : State} {p : Producer} (hr : InRange t) : InRange (blockRefused p t) := by
  unfold blockRefused
  repeat' (first | with_reducible exact hr | with_reducible apply makeClaim_inRange | with_reducible apply setStage_inRange | with_reducible apply endStep_inRange | with_reducible apply refuseRecord_inRange | split | dsimp only)

theorem dropRecord_inRange {t : State} {p : Producer} (hr : InRange t) : InRange (dropRecord p t) := by
  unfold dropRecord
  repeat' (first | with_reducible exact hr | with_reducible apply withPush_inRange | with_reducible apply withLink_inRange | (refine InRange.push ?_) | exact ⟨Nat.zero_le _, hr.push.2⟩ | split | dsimp only)

theorem openRefused_inRange {t : State} {p : Producer} {r : PushResult} (hr : InRange t) : InRange (openRefused p r t) := by
  unfold openRefused
  repeat' (first | with_reducible exact hr | with_reducible apply raise_inRange | with_reducible apply pushIdle_inRange | with_reducible apply inboundDiscard_inRange | with_reducible apply inboundDone_inRange | split | dsimp only)

theorem openTaken_inRange {t : State} {p : Producer} (hr : InRange t) : InRange (openTaken p t) := by
  unfold openTaken
  repeat' (first | with_reducible exact hr | with_reducible apply setWriter_inRange | with_reducible apply withPush_inRange | (refine writer_inRange ?_) | (refine InRange.push ?_) | exact ⟨Nat.zero_le _, hr.push.2⟩ | split | dsimp only)

theorem cancelDone_inRange {t : State} {p : Producer} (hr : InRange t) : InRange (cancelDone p t) := by
  unfold cancelDone
  repeat' (first | with_reducible exact hr | with_reducible apply pushIdle_inRange | with_reducible apply inboundDone_inRange | split | dsimp only)

theorem commitTaken_inRange {t : State} {p : Producer} (hr : InRange t) : InRange (commitTaken p t) := by
  unfold commitTaken
  repeat' (first | with_reducible exact hr | with_reducible apply pushIdle_inRange | with_reducible apply withLink_inRange | split | dsimp only)

theorem commitRefused_inRange {t : State} {p : Producer} (hr : InRange t) : InRange (commitRefused p t) := by
  unfold commitRefused
  repeat' (first | with_reducible exact hr | with_reducible apply dropRecord_inRange | split | dsimp only)

theorem beginStep_inRange {t : State} {p : Producer} {forHeader : Bool} (hr : InRange t) : InRange (beginStep p forHeader t) := by
  unfold beginStep
  repeat' (first | with_reducible exact hr | with_reducible apply setWriter_inRange | with_reducible apply producerClaim_inRange | (refine writer_inRange ?_) | split | dsimp only)

theorem fixHeader_inRange {t : State} {p : Producer} {q : QId} (hr : InRange t) : InRange (fixHeader p q t) := by
  unfold fixHeader
  repeat' (first | with_reducible exact hr | with_reducible apply setWriter_inRange | with_reducible apply beginStep_inRange | (refine writer_inRange ?_) | split | dsimp only)

theorem remainderEnters_inRange {x : Push} (h : PushInRange x) : PushInRange (remainderEnters x) := by
  unfold remainderEnters
  split
  · exact h
  · obtain ⟨b, a⟩ := h
    refine ⟨?_, a⟩
    simp only [List.length_append, List.length_replicate]
    omega

theorem postBurst_inRange {t : State} {p : Producer} {at_ : Pos} (hr : InRange t) : InRange (postBurst p at_ t) := by
  have w : ∀ n, InRange ((post p.client (writeRequest .burst at_ ((t.writer p).buf.take n)) t).setWriter p
      { t.writer p with buf := (t.writer p).buf.drop n, write := some (at_.add n) }) := by
    intro n
    refine setWriter_inRange (post_inRange hr) (fun e => ?_)
    have := writer_inRange hr e
    simp only [List.length_drop]
    omega
  unfold postBurst
  cases p
  · exact withPush_inRange (w _) (remainderEnters_inRange (w _).push)
  · exact w _

theorem writerWork_inRange {t : State} {p : Producer} (hr : InRange t) : KeepsRange (writerWork p t) := by
  unfold writerWork
  repeat' (first | with_reducible exact hr | with_reducible exact keeps_none | with_reducible apply keeps_some | (with_reducible apply keeps_map; intro _) | with_reducible apply keeps_or | with_reducible apply setWriter_inRange | with_reducible apply post_inRange | with_reducible apply beginStep_inRange | with_reducible apply fixHeader_inRange | with_reducible apply postBurst_inRange | (refine writer_inRange ?_) | split | dsimp only)

theorem cancelWork_inRange {t : State} {p : Producer} (hr : InRange t) : KeepsRange (cancelWork p t) := by
  unfold cancelWork
  repeat' (first | with_reducible exact hr | with_reducible exact keeps_none | with_reducible apply keeps_some | (with_reducible apply keeps_map; intro _) | with_reducible apply keeps_or | with_reducible apply setWriter_inRange | with_reducible apply producerClaim_inRange | with_reducible apply cancelDone_inRange | (refine writer_inRange ?_) | split | dsimp only)

theorem stepWork_inRange {t : State} {p : Producer} {b : BlockStep} (hr : InRange t) : KeepsRange (stepWork p b t) := by
  unfold stepWork
  repeat' (first | with_reducible exact hr | with_reducible exact keeps_none | with_reducible apply keeps_some | (with_reducible apply keeps_map; intro _) | with_reducible apply keeps_or | with_reducible apply setStage_inRange | with_reducible apply endStep_inRange | with_reducible apply producerClaim_inRange | with_reducible apply releaseSingle_inRange | with_reducible apply blockRefused_inRange | split | dsimp only)

theorem producerMicro_inRange {t : State} {p : Producer} (hr : InRange t) : KeepsRange (producerMicro p t) := by
  unfold producerMicro
  repeat' (first | with_reducible exact hr | with_reducible exact keeps_none | with_reducible apply keeps_some | (with_reducible apply keeps_map; intro _) | with_reducible apply keeps_or | with_reducible apply writerWork_inRange | with_reducible apply cancelWork_inRange | with_reducible apply stepWork_inRange | split | dsimp only)

theorem joinTaken_inRange {t : State} {p : Producer} {n : Nat} {prev : Option Nat} {h : Nat} (hr : InRange t) : InRange (joinTaken p n prev h t) := by
  unfold joinTaken
  repeat' (first | with_reducible exact hr | with_reducible apply setWriter_inRange | (refine writer_inRange ?_) | split | dsimp only)

theorem dropOwed_inRange {t : State} {q : QId} (hr : InRange t) : InRange (dropOwed t q) := by
  unfold dropOwed
  repeat' (first | with_reducible exact hr | with_reducible apply setWriter_inRange | (refine writer_inRange ?_) | split | dsimp only)

theorem discardLoop_inRange {t : State} {q : QId} {p : Producer} (hr : InRange t) : InRange (discardLoop q p t) := by
  unfold discardLoop
  repeat' (first | with_reducible exact hr | with_reducible apply endStep_inRange | with_reducible apply refuseRecord_inRange | with_reducible apply setQueue_inRange | (refine QueueInRange.same (InRange.queues ?_ _) rfl) | split | dsimp only)

theorem removeTaken_inRange {t : State} {c : Consumer} (hr : InRange t) : InRange (removeTaken c t) := by
  unfold removeTaken
  repeat' (first | with_reducible exact hr | with_reducible apply withPop_inRange | with_reducible apply withLink_inRange | split | dsimp only)

theorem removeRefused_inRange {t : State} {c : Consumer} (hr : InRange t) : InRange (removeRefused c t) := by
  unfold removeRefused
  repeat' (first | with_reducible exact hr | with_reducible apply withPop_inRange | with_reducible apply withLink_inRange | split | dsimp only)

theorem headAdvance_view (x : Queue) (o : Option Pos) (r : Removal) :
    rangeView (headAdvance x o r) = (x.records - 1, x.openRec, x.discards, x.blockLimit, x.watermark) := by
  unfold headAdvance
  dsimp only
  split
  · rfl
  · split <;> rfl

theorem headAdvance_inRange {x y : Queue} {o : Option Pos} {r : Removal} (h : QueueInRange x) {p : Option Consumer}
    (e : rangeView y = rangeView (headAdvance x o r)) : QueueInRange { y.unheld with pin := p } := by
  rw [headAdvance_view] at e
  simp only [rangeView, Prod.mk.injEq] at e
  exact h.fewer (by simp only [Queue.unheld]; omega) (Or.inr e.2.1) (by simp only [Queue.unheld, e])

theorem discarded_inRange {x : Queue} {o : Option Pos} {r : Removal} (h : QueueInRange x) :
    QueueInRange { headAdvance x o r with discards := sat16 ((headAdvance x o r).discards + 1) } := by
  have e := headAdvance_view x o r
  simp only [rangeView, Prod.mk.injEq] at e
  obtain ⟨a, b, c, d⟩ := h
  obtain ⟨e1, e2, _, e4, e5⟩ := e
  refine ⟨?_, fun n => ?_, Nat.min_le_right _ _, ?_⟩
  · simp only [e1]
    exact le_trans (Nat.sub_le _ _) a
  · simp only [e1]
    exact lt_of_le_of_lt (Nat.sub_le _ _) (b (by simpa only [e2] using n))
  · simpa only [e4, e5] using d

theorem cancelEffect_view (x : Queue) :
    rangeView (cancelEffect x) = (x.records, none, x.discards, x.blockLimit, x.watermark) := by
  unfold cancelEffect
  dsimp only
  split <;> rfl

theorem cancelEffect_inRange {x : Queue} (h : QueueInRange x) : QueueInRange (cancelEffect x).unheld := by
  have e := cancelEffect_view x
  simp only [rangeView, Prod.mk.injEq] at e
  exact h.fewer (by simp only [Queue.unheld]; omega) (Or.inl e.2.1) (by simp only [Queue.unheld, e])

theorem finishWork_inRange {t : State} {q : QId} (hr : InRange t) : InRange (finishWork q t) := by
  have hq := hr.queues q
  unfold finishWork
  dsimp only
  split
  · exact hr
  · exact removeTaken_inRange (setQueue_inRange (dropOwed_inRange hr) (headAdvance_inRange hq rfl))
  · exact cancelDone_inRange (setQueue_inRange hr (cancelEffect_inRange hq))
  · refine setQres_inRange (drainLeft_inRange (setQueue_inRange hr ?_))
    exact hq.fewer (Nat.zero_le _) (Or.inr rfl) rfl
  · split
    · have d := fun o r => drainLeft_inRange (q := q) (raiseQueue_inRange (c := .queueDiscard) (q := q)
        (setQueue_inRange (q := q) (dropOwed_inRange (q := q) hr) (discarded_inRange (o := o) (r := r) hq)))
      split
      · exact setStage_inRange (setQueue_inRange (d _ _) (QueueInRange.same ((d _ _).queues q) rfl))
      · exact discardLoop_inRange (d _ _)
    all_goals exact hr

theorem tryWork_inRange {t : State} {q : QId} (hr : InRange t) : InRange (tryWork q t) := by
  unfold tryWork
  repeat' (first | with_reducible exact hr | with_reducible apply poolPut_inRange | with_reducible apply finishWork_inRange | with_reducible apply withPool_inRange | with_reducible apply setQueue_inRange | (refine QueueInRange.same (InRange.queues ?_ _) rfl) | split | dsimp only)

theorem beginWork_inRange {t : State} {q : QId} {w : Work} (hr : InRange t) : InRange (beginWork q w t) := by
  unfold beginWork
  repeat' (first | with_reducible exact hr | with_reducible apply tryWork_inRange | with_reducible apply setQueue_inRange | (refine QueueInRange.same (InRange.queues ?_ _) rfl) | split | dsimp only)

theorem popPinned_inRange {t : State} {x : Queue} (hr : InRange t) : InRange (popPinned x t) := by
  unfold popPinned
  repeat' (first | with_reducible exact hr | with_reducible apply withPop_inRange | split | dsimp only)

theorem popRefused_inRange {t : State} {r : PopResult} (hr : InRange t) : InRange (popRefused r t) := by
  unfold popRefused
  repeat' (first | with_reducible exact hr | with_reducible apply withPop_inRange | split | dsimp only)

theorem answerOpen_inRange {t : State} {q : QId} {p : Producer} (hr : InRange t) : InRange (answerOpen q p t) := by
  unfold answerOpen
  split
  · exact openRefused_inRange hr
  · next e =>
    have h := hr.queues q
    refine openTaken_inRange (setQueue_inRange hr ⟨h.1, fun _ => ?_, h.2.2⟩)
    refine lt_of_le_of_ne h.1 (fun n => ?_)
    simp only [openAnswer] at e
    repeat' split at e
    all_goals exact nomatch e

theorem answerExtension_inRange {t : State} {q : QId} {p : Producer} (hr : InRange t) : InRange (answerExtension q p t) := by
  unfold answerExtension
  repeat' (first | with_reducible exact hr | with_reducible apply endStep_inRange | with_reducible apply allocate_inRange | with_reducible apply blockRefused_inRange | split | dsimp only)

theorem joinedBlock_inRange {b : Nat} {x : Queue} (h : QueueInRange x) : QueueInRange (joinedBlock b x) := by
  refine h.same ?_
  unfold joinedBlock
  split <;> rfl

theorem answerJoin_inRange {t : State} {q : QId} {p : Producer} {b : Nat} (hr : InRange t) :
    InRange (answerJoin q p b t) := by
  unfold answerJoin
  dsimp only
  split
  · exact releaseSingle_inRange (endStep_inRange hr)
  · exact joinTaken_inRange (cacheLeft_inRange (setQueue_inRange hr (joinedBlock_inRange (hr.queues q))))

theorem answerCommit_inRange {t : State} {q : QId} {p : Producer} {length : Nat} {header endPos : Pos}
    (hr : InRange t) : InRange (answerCommit q p length header endPos t) := by
  unfold answerCommit
  dsimp only
  split
  · exact commitRefused_inRange hr
  · next e =>
    have h := hr.queues q
    have c : QueueInRange (committed length header endPos (t.queue q)) := by
      have := h.2.1 (by rw [not_not.mp e]; exact Option.some_ne_none p)
      exact ⟨this, fun n => absurd rfl n, h.2.2⟩
    have k := commitTaken_inRange (p := p) (setQueue_inRange (q := q) hr c)
    split
    · exact raiseQueue_inRange k
    · exact k

theorem answerCancel_inRange {t : State} {q : QId} {p : Producer} (hr : InRange t) : InRange (answerCancel q p t) := by
  unfold answerCancel
  repeat' (first | with_reducible exact hr | with_reducible apply cancelDone_inRange | with_reducible apply beginWork_inRange | split | dsimp only)

theorem answerPin_inRange {t : State} {q : QId} {c : Consumer} {wanted : Bool} (hr : InRange t) : InRange (answerPin q c wanted t) := by
  unfold answerPin
  repeat' (first | with_reducible exact hr | with_reducible apply clearQueue_inRange | with_reducible apply popPinned_inRange | with_reducible apply popRefused_inRange | with_reducible apply setQueue_inRange | (refine QueueInRange.same (InRange.queues ?_ _) rfl) | split | dsimp only)

theorem answerUnpin_inRange {t : State} {q : QId} {c : Consumer} {noticed : Bool} (hr : InRange t) : InRange (answerUnpin q c noticed t) := by
  unfold answerUnpin
  repeat' (first | with_reducible exact hr | with_reducible apply withLink_inRange | with_reducible apply setQueue_inRange | (refine QueueInRange.same (InRange.queues ?_ _) rfl) | split | dsimp only)

theorem answerRemove_inRange {t : State} {q : QId} {c : Consumer} {r : Removal} (hr : InRange t) : InRange (answerRemove q c r t) := by
  unfold answerRemove
  repeat' (first | with_reducible exact hr | with_reducible apply removeRefused_inRange | with_reducible apply beginWork_inRange | split | dsimp only)

theorem answerDiscard_inRange {t : State} {q : QId} {p : Producer} (hr : InRange t) : InRange (answerDiscard q p t) := by
  unfold answerDiscard
  repeat' (first | with_reducible exact hr | with_reducible apply endStep_inRange | with_reducible apply discardLoop_inRange | split | dsimp only)

theorem answerClaim_inRange {t : State} {q : QId} {c : Claim} (hr : InRange t) : InRange (answerClaim q c t) := by
  unfold answerClaim
  repeat' (first | with_reducible exact hr | with_reducible apply answerOpen_inRange | with_reducible apply answerExtension_inRange | with_reducible apply answerJoin_inRange | with_reducible apply answerCommit_inRange | with_reducible apply answerCancel_inRange | with_reducible apply answerPin_inRange | with_reducible apply answerUnpin_inRange | with_reducible apply answerRemove_inRange | with_reducible apply answerDiscard_inRange | split | dsimp only)

theorem claimMicro_inRange {t : State} (hr : InRange t) : KeepsRange (claimMicro t) := by
  unfold claimMicro
  repeat' (first | with_reducible exact hr | with_reducible exact keeps_none | with_reducible apply keeps_some | (with_reducible apply keeps_map; intro _) | with_reducible apply keeps_or | with_reducible apply answerClaim_inRange | with_reducible apply setQueue_inRange | (refine QueueInRange.same (InRange.queues ?_ _) rfl) | split | dsimp only)

theorem takeFront_inRange {t : State} (hr : InRange t) : InRange (takeFront t) := by
  unfold takeFront
  repeat' (first | with_reducible exact hr | with_reducible apply poolPut_inRange | with_reducible apply poolPutSingle_inRange | with_reducible apply finishWork_inRange | with_reducible apply withPool_inRange | split | dsimp only)

theorem handoverMicro_inRange {t : State} (hr : InRange t) : KeepsRange (handoverMicro t) := by
  unfold handoverMicro
  repeat' (first | with_reducible exact hr | with_reducible exact keeps_none | with_reducible apply keeps_some | (with_reducible apply keeps_map; intro _) | with_reducible apply keeps_or | with_reducible apply takeFront_inRange | split | dsimp only)

theorem owedMicro_inRange {t : State} (hr : InRange t) : KeepsRange (owedMicro t) := by
  unfold owedMicro
  repeat' (first | with_reducible exact hr | with_reducible exact keeps_none | with_reducible apply keeps_some | (with_reducible apply keeps_map; intro _) | with_reducible apply keeps_or | with_reducible apply tryWork_inRange | split | dsimp only)

theorem discardWork_inRange {t : State} {q : QId} {d : Discard} (hr : InRange t) : KeepsRange (discardWork q d t) := by
  unfold discardWork
  repeat' (first | with_reducible exact hr | with_reducible exact keeps_none | with_reducible apply keeps_some | (with_reducible apply keeps_map; intro _) | with_reducible apply keeps_or | with_reducible apply post_inRange | with_reducible apply beginWork_inRange | with_reducible apply setQueue_inRange | (refine QueueInRange.same (InRange.queues ?_ _) rfl) | split | dsimp only)

theorem fetchNext_inRange {t : State} {c : Consumer} (hr : InRange t) : KeepsRange (fetchNext c t) := by
  unfold fetchNext
  repeat' (first | with_reducible exact hr | with_reducible exact keeps_none | with_reducible apply keeps_some | (with_reducible apply keeps_map; intro _) | with_reducible apply keeps_or | with_reducible apply setReader_inRange | with_reducible apply post_inRange | split | dsimp only)

theorem headerNext_inRange {t : State} {c : Consumer} (hr : InRange t) : KeepsRange (headerNext c t) := by
  unfold headerNext
  repeat' (first | with_reducible exact hr | with_reducible exact keeps_none | with_reducible apply keeps_some | (with_reducible apply keeps_map; intro _) | with_reducible apply keeps_or | with_reducible apply post_inRange | split | dsimp only)

theorem walkNext_inRange {t : State} {c : Consumer} (hr : InRange t) : KeepsRange (walkNext c t) := by
  unfold walkNext
  repeat' (first | with_reducible exact hr | with_reducible exact keeps_none | with_reducible apply keeps_some | (with_reducible apply keeps_map; intro _) | with_reducible apply keeps_or | with_reducible apply makeClaim_inRange | with_reducible apply setReader_inRange | with_reducible apply post_inRange | split | dsimp only)

theorem popMicro_inRange {t : State} (hr : InRange t) : KeepsRange (popMicro t) := by
  unfold popMicro
  repeat' (first | with_reducible exact hr | with_reducible exact keeps_none | with_reducible apply keeps_some | (with_reducible apply keeps_map; intro _) | with_reducible apply keeps_or | with_reducible apply fetchNext_inRange | with_reducible apply headerNext_inRange | with_reducible apply walkNext_inRange | split | dsimp only)

theorem beginSend_inRange {t : State} (hr : InRange t) : InRange (beginSend t) := by
  unfold beginSend
  repeat' (first | with_reducible exact hr | with_reducible apply withLink_inRange | with_reducible apply setQueue_inRange | (refine QueueInRange.same (InRange.queues ?_ _) rfl) | split | dsimp only)

theorem arbiter_inRange {t : State} (hr : InRange t) : KeepsRange (arbiter t) := by
  unfold arbiter
  repeat' (first | with_reducible exact hr | with_reducible exact keeps_none | with_reducible apply keeps_some | (with_reducible apply keeps_map; intro _) | with_reducible apply keeps_or | with_reducible apply beginSend_inRange | with_reducible apply withLink_inRange | split | dsimp only)

theorem idleGrantTimer_inRange {t : State} (hr : InRange t) : KeepsRange (idleGrantTimer t) := by
  unfold idleGrantTimer
  repeat' (first | with_reducible exact hr | with_reducible exact keeps_none | with_reducible apply keeps_some | (with_reducible apply keeps_map; intro _) | with_reducible apply keeps_or | with_reducible apply withLink_inRange | split | dsimp only)

theorem grantedMicro_inRange {t : State} (hr : InRange t) : KeepsRange (grantedMicro t) := by
  unfold grantedMicro
  repeat' (first | with_reducible exact hr | with_reducible exact keeps_none | with_reducible apply keeps_some | (with_reducible apply keeps_map; intro _) | with_reducible apply keeps_or | with_reducible apply idleGrantTimer_inRange | with_reducible apply withLink_inRange | split | dsimp only)

theorem reclaimingMicro_inRange {t : State} (hr : InRange t) : KeepsRange (reclaimingMicro t) := by
  unfold reclaimingMicro
  repeat' (first | with_reducible exact hr | with_reducible exact keeps_none | with_reducible apply keeps_some | (with_reducible apply keeps_map; intro _) | with_reducible apply keeps_or | with_reducible apply withLink_inRange | split | dsimp only)

theorem sendingMicro_inRange {t : State} (hr : InRange t) : KeepsRange (sendingMicro t) := by
  unfold sendingMicro
  repeat' (first | with_reducible exact hr | with_reducible exact keeps_none | with_reducible apply keeps_some | (with_reducible apply keeps_map; intro _) | with_reducible apply keeps_or | with_reducible apply withLink_inRange | split | dsimp only)

theorem linkMicro_inRange {t : State} (hr : InRange t) : KeepsRange (linkMicro t) := by
  unfold linkMicro
  repeat' (first | with_reducible exact hr | with_reducible exact keeps_none | with_reducible apply keeps_some | (with_reducible apply keeps_map; intro _) | with_reducible apply keeps_or | with_reducible apply arbiter_inRange | with_reducible apply grantedMicro_inRange | with_reducible apply reclaimingMicro_inRange | with_reducible apply sendingMicro_inRange | split | dsimp only)

theorem offerNext_inRange {t : State} (hr : InRange t) : KeepsRange (offerNext t) := by
  unfold offerNext
  repeat' (first | with_reducible exact hr | with_reducible exact keeps_none | with_reducible apply keeps_some | (with_reducible apply keeps_map; intro _) | with_reducible apply keeps_or | with_reducible apply withLink_inRange | split | dsimp only)

theorem retriedWrite_inRange {t : State} (hr : InRange t) : KeepsRange (retriedWrite t) := by
  unfold retriedWrite
  repeat' (first | with_reducible exact hr | with_reducible exact keeps_none | with_reducible apply keeps_some | (with_reducible apply keeps_map; intro _) | with_reducible apply keeps_or | with_reducible apply post_inRange | with_reducible apply withLink_inRange | split | dsimp only)

theorem settlingMicro_inRange {t : State} (hr : InRange t) : KeepsRange (settlingMicro t) := by
  unfold settlingMicro
  repeat' (first | with_reducible exact hr | with_reducible exact keeps_none | with_reducible apply keeps_some | (with_reducible apply keeps_map; intro _) | with_reducible apply keeps_or | with_reducible apply walkNext_inRange | with_reducible apply retriedWrite_inRange | with_reducible apply withLink_inRange | split | dsimp only)

theorem outboundMicro_inRange {t : State} (hr : InRange t) : KeepsRange (outboundMicro t) := by
  unfold outboundMicro
  repeat' (first | with_reducible exact hr | with_reducible exact keeps_none | with_reducible apply keeps_some | (with_reducible apply keeps_map; intro _) | with_reducible apply keeps_or | with_reducible apply fetchNext_inRange | with_reducible apply headerNext_inRange | with_reducible apply offerNext_inRange | with_reducible apply settlingMicro_inRange | split | dsimp only)

theorem answerWithheld_inRange {t : State} (hr : InRange t) : KeepsRange (answerWithheld t) := by
  unfold answerWithheld
  repeat' (first | with_reducible exact hr | with_reducible exact keeps_none | with_reducible apply keeps_some | (with_reducible apply keeps_map; intro _) | with_reducible apply keeps_or | with_reducible apply withLink_inRange | split | dsimp only)

theorem heldJoins_inRange {t : State} (hr : InRange t) : KeepsRange (heldJoins t) := by
  unfold heldJoins
  repeat' (first | with_reducible exact hr | with_reducible exact keeps_none | with_reducible apply keeps_some | (with_reducible apply keeps_map; intro _) | with_reducible apply keeps_or | with_reducible apply withLink_inRange | split | dsimp only)

theorem inboundMicro_inRange {t : State} (hr : InRange t) : KeepsRange (inboundMicro t) := by
  unfold inboundMicro
  repeat' (first | with_reducible exact hr | with_reducible exact keeps_none | with_reducible apply keeps_some | (with_reducible apply keeps_map; intro _) | with_reducible apply keeps_or | with_reducible apply cancelDone_inRange | with_reducible apply answerWithheld_inRange | with_reducible apply heldJoins_inRange | with_reducible apply withLink_inRange | split | dsimp only)

theorem stopMicro_inRange {t : State} (hr : InRange t) : KeepsRange (stopMicro t) := by
  unfold stopMicro
  repeat' (first | with_reducible exact hr | with_reducible exact keeps_none | with_reducible apply keeps_some | (with_reducible apply keeps_map; intro _) | with_reducible apply keeps_or | with_reducible apply raise_inRange | with_reducible apply withModeCtl_inRange | split | dsimp only)

theorem failAllocs_inRange {t : State} (hr : InRange t) : InRange (failAllocs t) := by
  have key : ∀ (l : List Producer) (u : State), InRange u → InRange (l.foldl (fun t p => setStage p .exhausted t) u) := by
    intro l
    induction l with
    | nil => exact fun _ h => h
    | cons p l ih => exact fun u h => ih _ (setStage_inRange h)
  exact key _ _ (withPool_inRange hr)

theorem allocMicro_inRange {t : State} (hr : InRange t) : KeepsRange (allocMicro t) := by
  unfold allocMicro
  split
  · exact keeps_some (failAllocs_inRange hr)
  · exact keeps_none

theorem poolMicro_inRange {t : State} (hr : InRange t) : KeepsRange (poolMicro t) := by
  unfold poolMicro
  split
  · exact keeps_map (fun _ => post_inRange hr)
  · exact keeps_none

/-- The first of several optional reactions is one of them. -/
theorem keeps_findSome {α : Type} (l : List α) (f : α → Option State) (h : ∀ a ∈ l, KeepsRange (f a)) :
    KeepsRange (l.findSome? f) := by
  induction l with
  | nil => exact keeps_none
  | cons a l ih =>
    rw [List.findSome?_cons]
    cases e : f a with
    | none => exact ih (fun b hb => h b (List.mem_cons_of_mem _ hb))
    | some u => exact keeps_some (h a List.mem_cons_self u e)

theorem discardMicro_inRange {t : State} (hr : InRange t) : KeepsRange (discardMicro t) := by
  unfold discardMicro
  refine keeps_findSome _ _ (fun q _ => ?_)
  split
  · exact discardWork_inRange hr
  all_goals exact keeps_none

theorem choiceMicro_inRange {t : State} (hr : InRange t) : KeepsRange (choiceMicro t) := by
  unfold choiceMicro
  split
  · split
    · exact keeps_none
    · exact keeps_some (withSeq_inRange hr)
    · exact keeps_map (fun r => withSeq_inRange hr)
  · exact keeps_none

/-! ### The whole event -/

theorem micro_inRange {t : State} (hr : InRange t) : KeepsRange (micro t) := by
  unfold micro
  refine keeps_findSome _ _ (fun f hf => ?_)
  simp only [microRules, List.mem_cons, List.not_mem_nil, or_false] at hf
  rcases hf with rfl | rfl | rfl | rfl | rfl | rfl | rfl | rfl | rfl | rfl | rfl | rfl | rfl | rfl
  · exact claimMicro_inRange hr
  · exact handoverMicro_inRange hr
  · exact owedMicro_inRange hr
  · exact producerMicro_inRange hr
  · exact producerMicro_inRange hr
  · exact inboundMicro_inRange hr
  · exact popMicro_inRange hr
  · exact outboundMicro_inRange hr
  · exact discardMicro_inRange hr
  · exact poolMicro_inRange hr
  · exact linkMicro_inRange hr
  · exact allocMicro_inRange hr
  · exact stopMicro_inRange hr
  · exact choiceMicro_inRange hr

theorem settleN_inRange (n : Nat) {t : State} (hr : InRange t) : InRange (settleN n t) := by
  induction n generalizing t with
  | zero => exact hr
  | succ n ih =>
    rw [settleN]
    cases e : micro t with
    | none => exact hr
    | some u => exact ih (micro_inRange hr u e)

/-- The reactions inside one event keep every descriptor and the push context in range. -/
theorem settle_inRange {s : State} (hr : InRange s) : InRange (settle s) := settleN_inRange _ hr

end Sys2Proof.Machine
end

