-- ==== Sys2Proof/Laws/CommandRanges.lean ====
section
/-! SUPPORT. The commands' own effects keep every descriptor and the push context in range: one lemma per operation that
Laws/Ranges.lean does not have. -/

set_option linter.unreachableTactic false
set_option linter.unusedTactic false

namespace Sys2Proof.Machine

theorem withStamp_inRange {t : State} {x : Stamp} (hr : InRange t) : InRange (t.withStamp x) := ⟨hr.1, hr.2⟩
theorem withPending_inRange {t : State} {x : List Instr} (hr : InRange t) : InRange (t.withPending x) := ⟨hr.1, hr.2⟩
theorem withArray_inRange {t : State} {x : ArrayMem} (hr : InRange t) : InRange (t.withArray x) := ⟨hr.1, hr.2⟩

/-- The same change at every descriptor. -/
theorem mapQueues_inRange {t : State} {f : Queue → Queue} (hr : InRange t) (h : ∀ x, QueueInRange x → QueueInRange (f x)) :
    InRange (t.withQueues (t.queues.map f)) := by
  refine ⟨fun q => ?_, hr.2⟩
  simp only [State.queue, withQueues_queues, Vector.getElem_map]
  exact h _ (hr.1 q)

theorem reinit_inRange {x : Queue} (h : QueueInRange x) : QueueInRange x.reinit :=
  h.fewer (Nat.zero_le _) (Or.inl rfl) rfl

theorem queueArrayFault_inRange {x : Queue} (h : QueueInRange x) : QueueInRange x.arrayFault := by
  unfold Queue.arrayFault
  split
  · exact h.fewer (le_refl _) (Or.inl rfl) rfl
  · exact h

theorem setCommand_inRange {t : State} {r : CmdResult} (hr : InRange t) : InRange (setCommand r t) := by
  unfold setCommand
  repeat' (first | with_reducible exact hr | with_reducible apply withSeq_inRange | split | dsimp only)

theorem setModeResult_inRange {t : State} {r : ModeResult} (hr : InRange t) : InRange (setModeResult r t) := by
  unfold setModeResult
  repeat' (first | with_reducible exact hr | with_reducible apply withModeCtl_inRange | split | dsimp only)

theorem windowAccess_inRange {t : State} (hr : InRange t) : InRange (windowAccess t) := by
  unfold windowAccess
  repeat' (first | with_reducible exact hr | with_reducible apply withWindow_inRange | split | dsimp only)

theorem drive_inRange {t : State} {b : Byte} (hr : InRange t) : InRange (drive b t) := by
  unfold drive
  repeat' (first | with_reducible exact hr | with_reducible apply withWindow_inRange | split | dsimp only)

theorem poolFault_inRange {t : State} (hr : InRange t) : InRange (poolFault t) := by
  unfold poolFault
  repeat' (first | with_reducible exact hr | with_reducible apply raise_inRange | with_reducible apply failAllocs_inRange | with_reducible apply withPool_inRange | with_reducible apply failAllocs_inRange | split | dsimp only)

theorem fetchConfirmed_inRange {t : State} {bs : List Byte} (hr : InRange t) : InRange (fetchConfirmed bs t) := by
  unfold fetchConfirmed
  repeat' (first | with_reducible exact hr | with_reducible apply serveWaiting_inRange | with_reducible apply poolFault_inRange | with_reducible apply withPool_inRange | split | dsimp only)

theorem releaseConfirmed_inRange {t : State} (hr : InRange t) : InRange (releaseConfirmed t) := by
  unfold releaseConfirmed
  repeat' (first | with_reducible exact hr | with_reducible apply withPool_inRange | split | dsimp only)

theorem poolReset_inRange {t : State} (hr : InRange t) : InRange (poolReset t) := by
  unfold poolReset
  repeat' (first | with_reducible exact hr | with_reducible apply withPool_inRange | split | dsimp only)

theorem writerConfirmed_inRange {t : State} {p : Producer} {u : Purpose} (hr : InRange t) : InRange (writerConfirmed p u t) := by
  have w : ∀ x : Writer, x.buf = (t.writer p).buf → InRange (t.setWriter p x) := fun x e =>
    setWriter_inRange hr (fun h => e ▸ writer_inRange hr h)
  unfold writerConfirmed
  dsimp only
  repeat' (first
    | with_reducible exact hr
    | exact w _ rfl
    | with_reducible apply producerClaim_inRange
    | split)

theorem workDropped_inRange {t : State} {q : QId} (hr : InRange t) : InRange (workDropped q t) := by
  unfold workDropped
  repeat' (first | with_reducible exact hr | with_reducible apply setQres_inRange | with_reducible apply removeRefused_inRange | split | dsimp only)

theorem faultClaim_inRange {t : State} {q : QId} (hr : InRange t) : InRange (faultClaim q t) := by
  unfold faultClaim
  repeat' (first | with_reducible exact hr | with_reducible apply raiseQueue_inRange | with_reducible apply dropRecord_inRange | with_reducible apply workDropped_inRange | with_reducible apply withPool_inRange | with_reducible apply setQueue_inRange | (refine QueueInRange.same (InRange.queues ?_ _) rfl) | (refine QueueInRange.fewer (InRange.queues ?_ _) (le_refl _) (Or.inl rfl) rfl) | (refine reinit_inRange (InRange.queues ?_ _)) | split | dsimp only)

theorem reinitQueues_inRange {t : State} (hr : InRange t) : InRange (reinitQueues t) := by
  unfold reinitQueues
  repeat' (first | with_reducible exact hr | with_reducible apply withLink_inRange | with_reducible apply withEvents_inRange | with_reducible apply withQueues_inRange | (refine mapQueues_inRange ?_ (fun _ => reinit_inRange)) | (refine mapQueues_inRange ?_ (fun _ => queueArrayFault_inRange)) | split | dsimp only)

theorem discardConfirmed_inRange {t : State} {q : QId} {d : Discard} {u : Purpose} {bs : List Byte} (hr : InRange t) : InRange (discardConfirmed q d u bs t) := by
  unfold discardConfirmed
  repeat' (first | with_reducible exact hr | with_reducible apply beginWork_inRange | with_reducible apply faultClaim_inRange | with_reducible apply setQueue_inRange | (refine QueueInRange.same (InRange.queues ?_ _) rfl) | (refine QueueInRange.fewer (InRange.queues ?_ _) (le_refl _) (Or.inl rfl) rfl) | (refine reinit_inRange (InRange.queues ?_ _)) | split | dsimp only)

theorem discardDelivered_inRange {t : State} {p : Producer} {u : Purpose} {bs : List Byte} (hr : InRange t) : InRange (discardDelivered p u bs t) := by
  unfold discardDelivered
  repeat' (first | with_reducible exact hr | with_reducible apply discardConfirmed_inRange | split | dsimp only)

theorem popChainFault_inRange {t : State} (hr : InRange t) : InRange (popChainFault t) := by
  unfold popChainFault
  repeat' (first | with_reducible exact hr | with_reducible apply faultClaim_inRange | with_reducible apply withPop_inRange | split | dsimp only)

theorem disownPins_inRange {t : State} {q : QId} (hr : InRange t) : InRange (disownPins q t) := by
  unfold disownPins
  repeat' (first | with_reducible exact hr | with_reducible apply setQueue_inRange | (refine QueueInRange.same (InRange.queues ?_ _) rfl) | (refine QueueInRange.fewer (InRange.queues ?_ _) (le_refl _) (Or.inl rfl) rfl) | (refine reinit_inRange (InRange.queues ?_ _)) | split | dsimp only)

theorem popReturned_inRange {t : State} (hr : InRange t) : InRange (popReturned t) := by
  unfold popReturned
  repeat' (first | with_reducible exact hr | with_reducible apply makeClaim_inRange | with_reducible apply disownPins_inRange | with_reducible apply withPop_inRange | split | dsimp only)

theorem popAbort_inRange {t : State} (hr : InRange t) : InRange (popAbort t) := by
  unfold popAbort
  repeat' (first | with_reducible exact hr | with_reducible apply popReturned_inRange | split | dsimp only)

theorem setPopResult_inRange {t : State} {r : PopResult} (hr : InRange t) : InRange (setPopResult r t) := by
  unfold setPopResult
  repeat' (first | with_reducible exact hr | with_reducible apply withPop_inRange | split | dsimp only)

theorem popSelect_inRange {t : State} {q : QId} (hr : InRange t) : InRange (popSelect q t) := by
  unfold popSelect
  repeat' (first | with_reducible exact hr | with_reducible apply makeClaim_inRange | with_reducible apply setPopResult_inRange | with_reducible apply withPop_inRange | split | dsimp only)

theorem popRelease_inRange {t : State} (hr : InRange t) : InRange (popRelease t) := by
  unfold popRelease
  repeat' (first | with_reducible exact hr | with_reducible apply setPopResult_inRange | with_reducible apply withPop_inRange | split | dsimp only)

theorem popReturn_inRange {t : State} (hr : InRange t) : InRange (popReturn t) := by
  unfold popReturn
  repeat' (first | with_reducible exact hr | with_reducible apply popReturned_inRange | with_reducible apply setPopResult_inRange | split | dsimp only)

theorem popRewind_inRange {t : State} (hr : InRange t) : InRange (popRewind t) := by
  unfold popRewind
  repeat' (first | with_reducible exact hr | with_reducible apply setPopResult_inRange | with_reducible apply withPop_inRange | split | dsimp only)

theorem popControl_inRange {t : State} {code : Byte} (hr : InRange t) : InRange (popControl code t) := by
  unfold popControl
  repeat' (first | with_reducible exact hr | with_reducible apply setPopResult_inRange | with_reducible apply popSelect_inRange | with_reducible apply popRelease_inRange | with_reducible apply popReturn_inRange | with_reducible apply popRewind_inRange | split | dsimp only)

theorem popRead_inRange {t : State} (hr : InRange t) : InRange (popRead t) := by
  unfold popRead
  repeat' (first | with_reducible exact hr | with_reducible apply raise_inRange | with_reducible apply withPop_inRange | split | dsimp only)

theorem popHeader_inRange {t : State} {bs : List Byte} (hr : InRange t) : InRange (popHeader bs t) := by
  unfold popHeader
  repeat' (first | with_reducible exact hr | with_reducible apply popChainFault_inRange | with_reducible apply withPop_inRange | split | dsimp only)

theorem popConfirmed_inRange {t : State} {u : Purpose} {bs : List Byte} (hr : InRange t) : InRange (popConfirmed u bs t) := by
  unfold popConfirmed
  repeat' (first | with_reducible exact hr | with_reducible apply popChainFault_inRange | with_reducible apply popHeader_inRange | with_reducible apply withPop_inRange | split | dsimp only)

theorem setLinkResult_inRange {t : State} {r : LinkResult} (hr : InRange t) : InRange (setLinkResult r t) := by
  unfold setLinkResult
  repeat' (first | with_reducible exact hr | with_reducible apply withLink_inRange | split | dsimp only)

theorem outChainFault_inRange {t : State} (hr : InRange t) : InRange (outChainFault t) := by
  unfold outChainFault
  repeat' (first | with_reducible exact hr | with_reducible apply faultClaim_inRange | with_reducible apply withLink_inRange | split | dsimp only)

theorem outHeader_inRange {t : State} {bs : List Byte} (hr : InRange t) : InRange (outHeader bs t) := by
  unfold outHeader
  repeat' (first | with_reducible exact hr | with_reducible apply outChainFault_inRange | with_reducible apply withLink_inRange | split | dsimp only)

theorem limitHold_inRange {t : State} {q : QId} (hr : InRange t) : InRange (limitHold q t) := by
  unfold limitHold
  repeat' (first | with_reducible exact hr | with_reducible apply raise_inRange | with_reducible apply withLink_inRange | with_reducible apply withEvents_inRange | with_reducible apply setQueue_inRange | (refine QueueInRange.same (InRange.queues ?_ _) rfl) | (refine QueueInRange.fewer (InRange.queues ?_ _) (le_refl _) (Or.inl rfl) rfl) | (refine reinit_inRange (InRange.queues ?_ _)) | split | dsimp only)

theorem flagWritten_inRange {t : State} (hr : InRange t) : InRange (flagWritten t) := by
  unfold flagWritten
  repeat' (first | with_reducible exact hr | with_reducible apply makeClaim_inRange | with_reducible apply setLinkResult_inRange | with_reducible apply limitHold_inRange | with_reducible apply withLink_inRange | split | dsimp only)

theorem outConfirmed_inRange {t : State} {u : Purpose} {bs : List Byte} (hr : InRange t) : InRange (outConfirmed u bs t) := by
  unfold outConfirmed
  repeat' (first | with_reducible exact hr | with_reducible apply outChainFault_inRange | with_reducible apply outHeader_inRange | with_reducible apply flagWritten_inRange | with_reducible apply withLink_inRange | split | dsimp only)

theorem lackRise_inRange {t : State} (hr : InRange t) : InRange (lackRise t) := by
  unfold lackRise
  repeat' (first | with_reducible exact hr | with_reducible apply withLink_inRange | split | dsimp only)

theorem peerAccept_inRange {t : State} (hr : InRange t) : InRange (peerAccept t) := by
  unfold peerAccept
  repeat' (first | with_reducible exact hr | with_reducible apply withLink_inRange | split | dsimp only)

theorem peerReject_inRange {t : State} (hr : InRange t) : InRange (peerReject t) := by
  unfold peerReject
  repeat' (first | with_reducible exact hr | with_reducible apply withLink_inRange | split | dsimp only)

theorem lackFall_inRange {t : State} (hr : InRange t) : InRange (lackFall t) := by
  unfold lackFall
  repeat' (first | with_reducible exact hr | with_reducible apply withLink_inRange | split | dsimp only)

theorem inboundBegin_inRange {t : State} (hr : InRange t) : InRange (inboundBegin t) := by
  unfold inboundBegin
  repeat' (first | with_reducible exact hr | with_reducible apply makeClaim_inRange | with_reducible apply withLink_inRange | split | dsimp only)

theorem payloadByte_inRange {t : State} {b : Byte} {declared : Nat} (hr : InRange t) : InRange (payloadByte b declared t) := by
  unfold payloadByte
  repeat' (first | with_reducible exact hr | with_reducible apply inboundReject_inRange | with_reducible apply withLink_inRange | split | dsimp only)

theorem frameData_inRange {t : State} {b : Byte} (hr : InRange t) : InRange (frameData b t) := by
  unfold frameData
  repeat' (first | with_reducible exact hr | with_reducible apply inboundReject_inRange | with_reducible apply payloadByte_inRange | with_reducible apply withLink_inRange | split | dsimp only)

theorem receiveData_inRange {t : State} {b : Byte} (hr : InRange t) : InRange (receiveData b t) := by
  unfold receiveData
  repeat' (first | with_reducible exact hr | with_reducible apply frameData_inRange | with_reducible apply withLink_inRange | split | dsimp only)

theorem receiveEnd_inRange {t : State} (hr : InRange t) : InRange (receiveEnd t) := by
  unfold receiveEnd
  repeat' (first | with_reducible exact hr | with_reducible apply inboundReject_inRange | with_reducible apply withLink_inRange | split | dsimp only)

theorem receiveAbort_inRange {t : State} (hr : InRange t) : InRange (receiveAbort t) := by
  unfold receiveAbort
  repeat' (first | with_reducible exact hr | with_reducible apply inboundCancel_inRange | with_reducible apply withLink_inRange | split | dsimp only)

theorem strayByte_inRange {t : State} (hr : InRange t) : InRange (strayByte t) := by
  unfold strayByte
  repeat' (first | with_reducible exact hr | with_reducible apply raise_inRange | with_reducible apply withLink_inRange | split | dsimp only)

theorem frameBegins_inRange {t : State} (hr : InRange t) : InRange (frameBegins t) := by
  unfold frameBegins
  repeat' (first | with_reducible exact hr | with_reducible apply inboundBegin_inRange | with_reducible apply withLink_inRange | split | dsimp only)

theorem tooLateByte_inRange {t : State} {control : Bool} {b : Byte} (hr : InRange t) : InRange (tooLateByte control b t) := by
  unfold tooLateByte
  repeat' (first | with_reducible exact hr | with_reducible apply strayByte_inRange | with_reducible apply withLink_inRange | split | dsimp only)

theorem receivingByte_inRange {t : State} {control : Bool} {b : Byte} (hr : InRange t) : InRange (receivingByte control b t) := by
  unfold receivingByte
  repeat' (first | with_reducible exact hr | with_reducible apply receiveData_inRange | with_reducible apply receiveEnd_inRange | with_reducible apply receiveAbort_inRange | with_reducible apply strayByte_inRange | split | dsimp only)

theorem lstbRise_inRange {t : State} {control : Bool} {b : Byte} (hr : InRange t) : InRange (lstbRise control b t) := by
  unfold lstbRise
  repeat' (first | with_reducible exact hr | with_reducible apply strayByte_inRange | with_reducible apply frameBegins_inRange | with_reducible apply tooLateByte_inRange | with_reducible apply receivingByte_inRange | with_reducible apply withLink_inRange | split | dsimp only)

theorem lstbFall_inRange {t : State} (hr : InRange t) : InRange (lstbFall t) := by
  unfold lstbFall
  repeat' (first | with_reducible exact hr | with_reducible apply withLink_inRange | split | dsimp only)

theorem outAbandon_inRange {t : State} (hr : InRange t) : InRange (outAbandon t) := by
  unfold outAbandon
  repeat' (first | with_reducible exact hr | with_reducible apply makeClaim_inRange | with_reducible apply withLink_inRange | split | dsimp only)

theorem inAbandon_inRange {t : State} (hr : InRange t) : InRange (inAbandon t) := by
  unfold inAbandon
  repeat' (first | with_reducible exact hr | with_reducible apply inboundReject_inRange | with_reducible apply withLink_inRange | split | dsimp only)

theorem linkStop_inRange {t : State} (hr : InRange t) : InRange (linkStop t) := by
  unfold linkStop
  repeat' (first | with_reducible exact hr | with_reducible apply setLinkResult_inRange | with_reducible apply outAbandon_inRange | with_reducible apply inAbandon_inRange | with_reducible apply withLink_inRange | split | dsimp only)

theorem linkTimeout_inRange {t : State} (hr : InRange t) : InRange (linkTimeout t) := by
  unfold linkTimeout
  repeat' (first | with_reducible exact hr | with_reducible apply raise_inRange | with_reducible apply outAbandon_inRange | with_reducible apply inAbandon_inRange | with_reducible apply withLink_inRange | split | dsimp only)

theorem linkStart_inRange {t : State} (hr : InRange t) : InRange (linkStart t) := by
  unfold linkStart
  repeat' (first | with_reducible exact hr | with_reducible apply setLinkResult_inRange | with_reducible apply withLink_inRange | split | dsimp only)

theorem linkControl_inRange {t : State} {code : Byte} (hr : InRange t) : InRange (linkControl code t) := by
  unfold linkControl
  repeat' (first | with_reducible exact hr | with_reducible apply setLinkResult_inRange | with_reducible apply linkStop_inRange | with_reducible apply linkStart_inRange | split | dsimp only)

theorem lreqRise_inRange {t : State} (hr : InRange t) : InRange (lreqRise t) := by
  unfold lreqRise
  repeat' (first | with_reducible exact hr | with_reducible apply withLink_inRange | split | dsimp only)

theorem lreqFall_inRange {t : State} (hr : InRange t) : InRange (lreqFall t) := by
  unfold lreqFall
  repeat' (first | with_reducible exact hr | with_reducible apply withLink_inRange | split | dsimp only)

theorem timedOut_inRange {t : State} (hr : InRange t) : InRange (timedOut t) := by
  unfold timedOut
  repeat' (first | with_reducible exact hr | with_reducible apply linkTimeout_inRange | split | dsimp only)

theorem idleGrantOver_inRange {t : State} (hr : InRange t) : InRange (idleGrantOver t) := by
  unfold idleGrantOver
  repeat' (first | with_reducible exact hr | with_reducible apply withLink_inRange | split | dsimp only)

theorem formatCompleted_inRange {t : State} (hr : InRange t) : InRange (formatCompleted t) := by
  unfold formatCompleted
  repeat' (first | with_reducible exact hr | with_reducible apply raise_inRange | with_reducible apply clear_inRange | with_reducible apply poolFault_inRange | with_reducible apply reinitQueues_inRange | with_reducible apply withPool_inRange | with_reducible apply withModeCtl_inRange | split | dsimp only)

theorem formatConfirmed_inRange {t : State} (hr : InRange t) : InRange (formatConfirmed t) := by
  unfold formatConfirmed
  repeat' (first | with_reducible exact hr | with_reducible apply formatCompleted_inRange | with_reducible apply withPool_inRange | split | dsimp only)

theorem poolConfirmed_inRange {t : State} {u : Purpose} {bs : List Byte} (hr : InRange t) : InRange (poolConfirmed u bs t) := by
  unfold poolConfirmed
  repeat' (first | with_reducible exact hr | with_reducible apply fetchConfirmed_inRange | with_reducible apply releaseConfirmed_inRange | with_reducible apply formatConfirmed_inRange | split | dsimp only)

theorem producerConfirmed_inRange {t : State} {p : Producer} {u : Purpose} {bs : List Byte} (hr : InRange t) : InRange (producerConfirmed p u bs t) := by
  unfold producerConfirmed
  repeat' (first | with_reducible exact hr | with_reducible apply writerConfirmed_inRange | with_reducible apply discardDelivered_inRange | split | dsimp only)

theorem deliver_inRange {t : State} {c : Client} {u : Purpose} {bs : List Byte} (hr : InRange t) : InRange (deliver c u bs t) := by
  unfold deliver
  repeat' (first | with_reducible exact hr | with_reducible apply popConfirmed_inRange | with_reducible apply outConfirmed_inRange | with_reducible apply poolConfirmed_inRange | with_reducible apply producerConfirmed_inRange | split | dsimp only)

theorem takeHandovers_inRange (n : Nat) {t : State} (hr : InRange t) : InRange (takeHandovers n t) := by
  induction n generalizing t with
  | zero => exact hr
  | succ n ih =>
    unfold takeHandovers
    split
    · exact hr
    · exact ih (takeFront_inRange hr)

theorem poolLeaves_inRange {t : State} {x : PoolState} (hr : InRange t) : InRange (poolLeaves x t) := by
  unfold poolLeaves
  repeat' (first | with_reducible exact hr | with_reducible apply takeHandovers_inRange | with_reducible apply withPool_inRange | split | dsimp only)

theorem formatBegins_inRange {t : State} (hr : InRange t) : InRange (formatBegins t) := by
  unfold formatBegins
  repeat' (first | with_reducible exact hr | with_reducible apply setCommand_inRange | with_reducible apply failAllocs_inRange | with_reducible apply poolLeaves_inRange | with_reducible apply withPool_inRange | with_reducible apply withModeCtl_inRange | split | dsimp only)

theorem modeTaken_inRange {t : State} {m : Mode} {stop : Option Stop} (hr : InRange t) : InRange (modeTaken m stop t) := by
  unfold modeTaken
  repeat' (first | with_reducible exact hr | with_reducible apply withModeCtl_inRange | split | dsimp only)

theorem requestRun_inRange {t : State} (hr : InRange t) : InRange (requestRun t) := by
  unfold requestRun
  repeat' (first | with_reducible exact hr | with_reducible apply setModeResult_inRange | with_reducible apply modeTaken_inRange | split | dsimp only)

theorem requestStop_inRange {t : State} (hr : InRange t) : InRange (requestStop t) := by
  unfold requestStop
  repeat' (first | with_reducible exact hr | with_reducible apply setModeResult_inRange | with_reducible apply modeTaken_inRange | split | dsimp only)

theorem pushAbort_inRange {t : State} (hr : InRange t) : InRange (pushAbort t) := by
  unfold pushAbort
  repeat' (first | with_reducible exact hr | with_reducible apply pushCancel_inRange | split | dsimp only)

theorem abortActions_inRange {t : State} (hr : InRange t) : InRange (abortActions t) := by
  unfold abortActions
  repeat' (first | with_reducible exact hr | with_reducible apply popAbort_inRange | with_reducible apply linkStop_inRange | with_reducible apply pushAbort_inRange | split | dsimp only)

theorem requestAbort_inRange {t : State} (hr : InRange t) : InRange (requestAbort t) := by
  unfold requestAbort
  repeat' (first | with_reducible exact hr | with_reducible apply setModeResult_inRange | with_reducible apply modeTaken_inRange | with_reducible apply abortActions_inRange | split | dsimp only)

theorem fetchPage_inRange {t : State} {p : Page} (hr : InRange t) : InRange (fetchPage p t) := by
  unfold fetchPage
  repeat' (first | with_reducible exact hr | with_reducible apply setQres_inRange | with_reducible apply withWindow_inRange | split | dsimp only)

theorem storeConfig_inRange {t : State} {x : Queue} {q : QId} {b : Bool} {y : Queue} (hr : InRange t)
    (h : b = true → QueueInRange y) : InRange (storeConfig x q b y t).2 := by
  unfold storeConfig
  repeat' (first | with_reducible exact hr | split)
  · next e => exact setQueue_inRange hr (h e)

theorem storeParameter_inRange {t : State} {y : Option Link} (hr : InRange t) : InRange (storeParameter y t).2 := by
  unfold storeParameter
  repeat' (first | with_reducible exact hr | with_reducible exact withLink_inRange hr | split)

theorem storeShape_inRange {t : State} {y : Option Seq} (hr : InRange t) : InRange (storeShape y t).2 := by
  unfold storeShape
  repeat' (first | with_reducible exact hr | with_reducible exact withSeq_inRange hr | split)

theorem storePrescale_inRange {t : State} {v : Nat} (hr : InRange t) : InRange (storePrescale v t).2 := by
  unfold storePrescale
  repeat' (first | with_reducible exact hr | with_reducible exact withStamp_inRange hr | split)

theorem storeQueue_inRange {t : State} {q : QId} {f v : Nat} {x : Stored} (hr : InRange t)
    (h : storeQueue q f v t = some x) : InRange x.2 := by
  have k := hr.queues q
  unfold storeQueue at h
  dsimp only at h
  split at h
  all_goals first | contradiction | (simp only [Option.some.injEq] at h; subst h)
  all_goals first | with_reducible exact hr | skip
  · exact storeConfig_inRange hr (fun _ => k.same rfl)
  · exact storeConfig_inRange hr (fun _ => k.same rfl)
  · refine storeConfig_inRange hr (fun e => ?_)
    have b := of_decide_eq_true e
    exact ⟨k.1, k.2.1, k.2.2.1, b.1, b.2, k.2.2.2.2.2⟩
  · split
    · next e => exact setQueue_inRange hr ⟨k.1, k.2.1, k.2.2.1, k.2.2.2.1, k.2.2.2.2.1, by simp only; omega⟩
    · exact hr
  · exact storeConfig_inRange hr (fun _ => k.same rfl)
  · exact setQueue_inRange hr ⟨k.1, k.2.1, Nat.zero_le _, k.2.2.2⟩

theorem ownerStore_inRange {t u : State} {p : Page} {f v : Nat} {r : QRes} (hr : InRange t)
    (e : ownerStore p f v t = some (r, u)) : InRange u := by
  have key : ∀ x : Stored, ownerStore p f v t = some x → InRange x.2 := by
    intro x h
    unfold ownerStore at h
    split at h
    · exact storeQueue_inRange hr h
    · unfold storeLink at h
      dsimp only at h
      split at h
      all_goals first | contradiction | (simp only [Option.some.injEq] at h; subst h)
      all_goals first
        | with_reducible exact hr
        | with_reducible exact storeParameter_inRange hr
        | exact withLink_inRange hr
    · unfold storeArray at h
      dsimp only at h
      split at h
      all_goals first | contradiction | (simp only [Option.some.injEq] at h; subst h)
      all_goals first
        | with_reducible exact hr
        | with_reducible exact storePrescale_inRange hr
        | with_reducible exact storeShape_inRange hr
  exact key _ e

theorem storePage_inRange {t : State} {p : Page} (hr : InRange t) : InRange (storePage p t) := by
  unfold storePage
  split
  · exact setQres_inRange hr
  · next e => exact setQres_inRange (ownerStore_inRange hr e)

theorem pushProtocol_inRange {t : State} (hr : InRange t) : InRange (pushProtocol t) := by
  unfold pushProtocol
  repeat' (first | with_reducible exact hr | with_reducible apply raise_inRange | split | dsimp only)

theorem pushRepeat_inRange {t : State} {n : Nat} (hr : InRange t) : InRange (pushRepeat n t) := by
  unfold pushRepeat
  repeat' (first | with_reducible exact hr | with_reducible apply pushProtocol_inRange | with_reducible apply withPush_inRange | (refine InRange.push ?_) | exact ⟨Nat.zero_le _, hr.push.2⟩ | exact ⟨Nat.zero_le _, Nat.zero_le _⟩ | exact ⟨hr.push.1, hr.push.2⟩ | split | dsimp only)

theorem pushEnd_inRange {t : State} (hr : InRange t) : InRange (pushEnd t) := by
  unfold pushEnd
  repeat' (first | with_reducible exact hr | with_reducible apply pushProtocol_inRange | with_reducible apply withPush_inRange | (refine InRange.push ?_) | exact ⟨Nat.zero_le _, hr.push.2⟩ | exact ⟨Nat.zero_le _, Nat.zero_le _⟩ | exact ⟨hr.push.1, hr.push.2⟩ | split | dsimp only)

theorem pushCancelled_inRange {t : State} (hr : InRange t) : InRange (pushCancelled t) := by
  unfold pushCancelled
  repeat' (first | with_reducible exact hr | with_reducible apply pushCancel_inRange | with_reducible apply pushProtocol_inRange | split | dsimp only)

theorem pushOverrun_inRange {t : State} (hr : InRange t) : InRange (pushOverrun t) := by
  unfold pushOverrun
  repeat' (first | with_reducible exact hr | with_reducible apply raise_inRange | with_reducible apply withPush_inRange | (refine InRange.push ?_) | exact ⟨Nat.zero_le _, hr.push.2⟩ | exact ⟨Nat.zero_le _, Nat.zero_le _⟩ | exact ⟨hr.push.1, hr.push.2⟩ | split | dsimp only)

theorem pushTooLong_inRange {t : State} (hr : InRange t) : InRange (pushTooLong t) := by
  unfold pushTooLong
  repeat' (first | with_reducible exact hr | with_reducible apply raise_inRange | with_reducible apply pushCancel_inRange | split | dsimp only)

theorem accept_inRange {x : Push} {b : Byte} {c : Nat} (h : PushInRange x) (a : x.accepted + c ≤ Config.maxPayload) :
    PushInRange (x.accept b c) := by
  refine ⟨?_, a⟩
  have := h.1
  simp only [Push.accept, List.length_append, List.length_replicate]
  omega

theorem pushPayload_inRange {t : State} {b : Byte} (hr : InRange t) : InRange (pushPayload b t) := by
  unfold pushPayload
  split
  · exact pushOverrun_inRange hr
  · split
    · exact pushTooLong_inRange hr
    · next a => exact withPush_inRange hr (accept_inRange hr.push (not_lt.mp a))

theorem pushData_inRange {t : State} {b : Byte} (hr : InRange t) : InRange (pushData b t) := by
  unfold pushData
  repeat' (first | with_reducible exact hr | with_reducible apply pushProtocol_inRange | with_reducible apply pushPayload_inRange | with_reducible apply withPush_inRange | (refine InRange.push ?_) | exact ⟨Nat.zero_le _, hr.push.2⟩ | exact ⟨Nat.zero_le _, Nat.zero_le _⟩ | exact ⟨hr.push.1, hr.push.2⟩ | split | dsimp only)

theorem readPstat_inRange {t : State} (hr : InRange t) : InRange (readPstat t) := by
  unfold readPstat
  repeat' (first | with_reducible exact hr | with_reducible apply withWindow_inRange | split | dsimp only)

theorem readData_inRange {t : State} (hr : InRange t) : InRange (readData t) := by
  unfold readData
  repeat' (first | with_reducible exact hr | with_reducible apply windowAccess_inRange | with_reducible apply drive_inRange | with_reducible apply popRead_inRange | split | dsimp only)

theorem pageCommand_inRange {t : State} {f : Page → State → State} (h : ∀ p u, InRange u → InRange (f p u))
    (hr : InRange t) : InRange (pageCommand f t) := by
  unfold pageCommand
  repeat' (first | with_reducible exact hr | with_reducible exact h _ _ hr | with_reducible apply setQres_inRange | split)

theorem queueCommand_inRange {t : State} {f : QId → State → State} (h : ∀ q u, InRange u → InRange (f q u))
    (hr : InRange t) : InRange (queueCommand f t) := by
  unfold queueCommand
  repeat' (first | with_reducible exact hr | with_reducible exact h _ _ hr | with_reducible apply setQres_inRange | split)

theorem answerCommand_inRange {t : State} {q : QId} {r : Option QRes} {y : Queue} (hr : InRange t) (h : QueueInRange y) :
    InRange (answerCommand q r y t) := by
  unfold answerCommand
  split
  · exact setQres_inRange hr
  · exact setQres_inRange (setQueue_inRange hr h)

theorem enableQueue_inRange {t : State} {q : QId} (hr : InRange t) : InRange (enableQueue q t) :=
  answerCommand_inRange hr ((hr.queues q).same rfl)

theorem disableQueue_inRange {t : State} {q : QId} (hr : InRange t) : InRange (disableQueue q t) :=
  answerCommand_inRange hr ((hr.queues q).same rfl)

theorem holdQueue_inRange {t : State} {q : QId} (hr : InRange t) : InRange (holdQueue q t) :=
  answerCommand_inRange hr ((hr.queues q).same rfl)

theorem resumeQueue_inRange {t : State} {q : QId} (hr : InRange t) : InRange (resumeQueue q t) :=
  answerCommand_inRange hr ((hr.queues q).same rfl)

theorem flushQueue_inRange {t : State} {q : QId} (hr : InRange t) : InRange (flushQueue q t) := by
  unfold flushQueue
  repeat' (first | with_reducible exact hr | with_reducible apply setQres_inRange | with_reducible apply beginWork_inRange | split | dsimp only)

theorem clearFault_inRange {t : State} {q : QId} (hr : InRange t) : InRange (clearFault q t) := by
  unfold clearFault
  repeat' (first | with_reducible exact hr | with_reducible apply clearQueue_inRange | with_reducible apply setQres_inRange | with_reducible apply drainLeft_inRange | with_reducible apply setQueue_inRange | (refine QueueInRange.same (InRange.queues ?_ _) rfl) | (refine QueueInRange.fewer (InRange.queues ?_ _) (le_refl _) (Or.inl rfl) rfl) | (refine reinit_inRange (InRange.queues ?_ _)) | split | dsimp only)

theorem queueControl_inRange {t : State} {code : Byte} (hr : InRange t) : InRange (queueControl code t) := by
  unfold queueControl
  repeat' (first
    | with_reducible exact hr
    | with_reducible exact pageCommand_inRange (fun _ _ h => fetchPage_inRange h) hr
    | with_reducible exact pageCommand_inRange (fun _ _ h => storePage_inRange h) hr
    | with_reducible exact queueCommand_inRange (fun _ _ h => enableQueue_inRange h) hr
    | with_reducible exact queueCommand_inRange (fun _ _ h => disableQueue_inRange h) hr
    | with_reducible exact queueCommand_inRange (fun _ _ h => holdQueue_inRange h) hr
    | with_reducible exact queueCommand_inRange (fun _ _ h => resumeQueue_inRange h) hr
    | with_reducible exact queueCommand_inRange (fun _ _ h => flushQueue_inRange h) hr
    | with_reducible exact queueCommand_inRange (fun _ _ h => clearFault_inRange h) hr
    | with_reducible apply setQres_inRange
    | split)

theorem report_inRange {t : State} {code : Byte} {queue : Byte} (hr : InRange t) : InRange (report code queue t) := by
  unfold report
  repeat' (first | with_reducible exact hr | with_reducible apply withEvents_inRange | split | dsimp only)

theorem clearReported_inRange {t : State} {c : Cause} (hr : InRange t) : InRange (clearReported c t) := by
  unfold clearReported
  repeat' (first | with_reducible exact hr | with_reducible apply clear_inRange | split | dsimp only)

theorem readEvid_inRange {t : State} (hr : InRange t) : InRange (readEvid t) := by
  unfold readEvid
  repeat' (first | with_reducible exact hr | with_reducible apply drive_inRange | with_reducible apply report_inRange | with_reducible apply clearReported_inRange | split | dsimp only)

theorem readEvq_inRange {t : State} (hr : InRange t) : InRange (readEvq t) := by
  unfold readEvq
  repeat' (first | with_reducible exact hr | with_reducible apply drive_inRange | with_reducible apply withEvents_inRange | split | dsimp only)

theorem writeEven_inRange {t : State} {v : Byte} (hr : InRange t) : InRange (writeEven v t) := by
  unfold writeEven
  repeat' (first | with_reducible exact hr | with_reducible apply withEvents_inRange | split | dsimp only)

theorem acknowledge_inRange {t : State} {code : Byte} (hr : InRange t) : InRange (acknowledge code t) := by
  unfold acknowledge
  repeat' (first | with_reducible exact hr | with_reducible apply clear_inRange | with_reducible apply clearQueue_inRange | split | dsimp only)

theorem readLstat_inRange {t : State} (hr : InRange t) : InRange (readLstat t) := by
  unfold readLstat
  repeat' (first | with_reducible exact hr | with_reducible apply withWindow_inRange | split | dsimp only)

theorem stampCleared_inRange {t : State} (hr : InRange t) : InRange (stampCleared t) := by
  unfold stampCleared
  repeat' (first | with_reducible exact hr | with_reducible apply setCommand_inRange | with_reducible apply withStamp_inRange | split | dsimp only)

theorem stampTicked_inRange {t : State} (hr : InRange t) : InRange (stampTicked t) := by
  unfold stampTicked
  repeat' (first | with_reducible exact hr | with_reducible apply withStamp_inRange | split | dsimp only)

theorem modeArrayFault_inRange {t : State} (hr : InRange t) : InRange (modeArrayFault t) := by
  unfold modeArrayFault
  repeat' (first | with_reducible exact hr | with_reducible apply withModeCtl_inRange | split | dsimp only)

theorem pushArrayFault_inRange {t : State} (hr : InRange t) : InRange (pushArrayFault t) := by
  unfold pushArrayFault
  repeat' (first | with_reducible exact hr | with_reducible apply pushIdle_inRange | split | dsimp only)

theorem popArrayFault_inRange {t : State} (hr : InRange t) : InRange (popArrayFault t) := by
  unfold popArrayFault
  repeat' (first | with_reducible exact hr | with_reducible apply withPop_inRange | split | dsimp only)

theorem linkArrayFault_inRange {t : State} (hr : InRange t) : InRange (linkArrayFault t) := by
  unfold linkArrayFault
  repeat' (first | with_reducible exact hr | with_reducible apply withLink_inRange | split | dsimp only)

theorem poolArrayFault_inRange {t : State} (hr : InRange t) : InRange (poolArrayFault t) := by
  unfold poolArrayFault
  repeat' (first | with_reducible exact hr | with_reducible apply withPool_inRange | split | dsimp only)

theorem queuesArrayFault_inRange {t : State} (hr : InRange t) : InRange (queuesArrayFault t) := by
  unfold queuesArrayFault
  repeat' (first | with_reducible exact hr | with_reducible apply setQres_inRange | with_reducible apply withQueues_inRange | (refine mapQueues_inRange ?_ (fun _ => reinit_inRange)) | (refine mapQueues_inRange ?_ (fun _ => queueArrayFault_inRange)) | split | dsimp only)

theorem arrayFault_inRange {t : State} (hr : InRange t) : InRange (arrayFault t) := by
  unfold arrayFault
  repeat' (first | with_reducible exact hr | with_reducible apply raise_inRange | with_reducible apply modeArrayFault_inRange | with_reducible apply pushArrayFault_inRange | with_reducible apply popArrayFault_inRange | with_reducible apply linkArrayFault_inRange | with_reducible apply poolArrayFault_inRange | with_reducible apply queuesArrayFault_inRange | with_reducible apply withSeq_inRange | split | dsimp only)

theorem takeUp_inRange {t : State} (hr : InRange t) : InRange (takeUp t) := by
  unfold takeUp
  repeat' (first | with_reducible exact hr | with_reducible apply raise_inRange | with_reducible apply arrayFault_inRange | with_reducible apply withSeq_inRange | split | dsimp only)

theorem afterCompletion_inRange {t : State} {f : Seq → Seq} (hr : InRange t) : InRange (afterCompletion f t) := by
  unfold afterCompletion
  split
  · exact takeUp_inRange hr
  · exact withSeq_inRange hr

theorem accessDone_inRange {t : State} {c : Client} {r : Request} {reply : ArrayReply} (hr : InRange t) : InRange (accessDone c r reply t) := by
  unfold accessDone
  repeat' (first | with_reducible exact hr | with_reducible apply afterCompletion_inRange | with_reducible apply withSeq_inRange | with_reducible apply withArray_inRange | split | dsimp only)

theorem reissueDone_inRange {t : State} {e : Entry} {reply : ArrayReply} (hr : InRange t) : InRange (reissueDone e reply t) := by
  unfold reissueDone
  repeat' (first | with_reducible exact hr | with_reducible apply afterCompletion_inRange | with_reducible apply withSeq_inRange | with_reducible apply withArray_inRange | split | dsimp only)

theorem refreshDone_inRange {t : State} (hr : InRange t) : InRange (refreshDone t) := by
  unfold refreshDone
  repeat' (first | with_reducible exact hr | with_reducible apply afterCompletion_inRange | with_reducible apply withSeq_inRange | split | dsimp only)

theorem startClosed_inRange {t : State} (hr : InRange t) : InRange (startClosed t) := by
  unfold startClosed
  repeat' (first | with_reducible exact hr | with_reducible apply withSeq_inRange | split | dsimp only)

theorem startRefreshed_inRange {t : State} (hr : InRange t) : InRange (startRefreshed t) := by
  unfold startRefreshed
  repeat' (first | with_reducible exact hr | with_reducible apply afterCompletion_inRange | with_reducible apply withSeq_inRange | split | dsimp only)

theorem recoveryClosed_inRange {t : State} (hr : InRange t) : InRange (recoveryClosed t) := by
  unfold recoveryClosed
  repeat' (first | with_reducible exact hr | with_reducible apply afterCompletion_inRange | with_reducible apply withSeq_inRange | split | dsimp only)

theorem alertRaised_inRange {t : State} (hr : InRange t) : InRange (alertRaised t) := by
  unfold alertRaised
  repeat' (first | with_reducible exact hr | with_reducible apply takeUp_inRange | with_reducible apply withSeq_inRange | split | dsimp only)

theorem refreshExpired_inRange {t : State} (hr : InRange t) : InRange (refreshExpired t) := by
  unfold refreshExpired
  repeat' (first | with_reducible exact hr | with_reducible apply raise_inRange | with_reducible apply withSeq_inRange | split | dsimp only)

theorem setSlot_inRange {t : State} {c : Client} {v : Slot} (hr : InRange t) : InRange (State.setSlot t c v) := by
  unfold State.setSlot
  repeat' (first | with_reducible exact hr | with_reducible apply withSeq_inRange | split | dsimp only)

theorem confirmFront_inRange {t : State} (hr : InRange t) : InRange (confirmFront t) := by
  unfold confirmFront
  repeat' (first | with_reducible exact hr | with_reducible apply deliver_inRange | with_reducible apply setSlot_inRange | with_reducible apply withSeq_inRange | split | dsimp only)

theorem arrayUnknown_inRange {t : State} (hr : InRange t) : InRange (arrayUnknown t) := by
  unfold arrayUnknown
  repeat' (first | with_reducible exact hr | with_reducible apply withArray_inRange | split | dsimp only)

theorem arraySwitchOn_inRange {t : State} (hr : InRange t) : InRange (arraySwitchOn t) := by
  unfold arraySwitchOn
  repeat' (first | with_reducible exact hr | with_reducible apply setCommand_inRange | with_reducible apply arrayUnknown_inRange | with_reducible apply withSeq_inRange | split | dsimp only)

theorem arraySwitchOff_inRange {t : State} (hr : InRange t) : InRange (arraySwitchOff t) := by
  unfold arraySwitchOff
  repeat' (first | with_reducible exact hr | with_reducible apply clear_inRange | with_reducible apply setCommand_inRange | with_reducible apply poolReset_inRange | with_reducible apply reinitQueues_inRange | with_reducible apply poolLeaves_inRange | with_reducible apply withSeq_inRange | split | dsimp only)

theorem leaveHalted_inRange {t : State} (hr : InRange t) : InRange (leaveHalted t) := by
  unfold leaveHalted
  repeat' (first | with_reducible exact hr | with_reducible apply clear_inRange | with_reducible apply poolReset_inRange | with_reducible apply reinitQueues_inRange | with_reducible apply modeTaken_inRange | with_reducible apply arrayFault_inRange | with_reducible apply arrayUnknown_inRange | with_reducible apply withSeq_inRange | split | dsimp only)

theorem requestConfig_inRange {t : State} (hr : InRange t) : InRange (requestConfig t) := by
  unfold requestConfig
  repeat' (first | with_reducible exact hr | with_reducible apply setModeResult_inRange | with_reducible apply leaveHalted_inRange | split | dsimp only)

theorem modeRequest_inRange {t : State} {code : Byte} (hr : InRange t) : InRange (modeRequest code t) := by
  unfold modeRequest
  repeat' (first | with_reducible exact hr | with_reducible apply setModeResult_inRange | with_reducible apply requestRun_inRange | with_reducible apply requestStop_inRange | with_reducible apply requestAbort_inRange | with_reducible apply requestConfig_inRange | split | dsimp only)

theorem pushOpen_inRange {t : State} {q : QId} (hr : InRange t) : InRange (pushOpen q t) := by
  unfold pushOpen
  repeat' (first | with_reducible exact hr | with_reducible apply raise_inRange | with_reducible apply makeClaim_inRange | with_reducible apply pushProtocol_inRange | with_reducible apply withPush_inRange | (refine InRange.push ?_) | exact ⟨Nat.zero_le _, hr.push.2⟩ | exact ⟨Nat.zero_le _, Nat.zero_le _⟩ | exact ⟨hr.push.1, hr.push.2⟩ | split | dsimp only)

theorem pushControl_inRange {t : State} {code : Byte} (hr : InRange t) : InRange (pushControl code t) := by
  unfold pushControl
  repeat' (first | with_reducible exact hr | with_reducible apply pushProtocol_inRange | with_reducible apply pushRepeat_inRange | with_reducible apply pushEnd_inRange | with_reducible apply pushCancelled_inRange | with_reducible apply pushOpen_inRange | split | dsimp only)

theorem globalCommand_inRange {t : State} {code : Byte} (hr : InRange t) : InRange (globalCommand code stampCleared t) := by
  unfold globalCommand
  repeat' (first
    | with_reducible exact hr
    | with_reducible apply arraySwitchOn_inRange
    | with_reducible apply arraySwitchOff_inRange
    | with_reducible apply formatBegins_inRange
    | with_reducible apply stampCleared_inRange
    | with_reducible apply setCommand_inRange
    | split)

end Sys2Proof.Machine
end

