-- ==== Sys2Proof/Laws/Effects.lean ====
section
/-! SUPPORT. The waiting commands, the enables, the mode and the array over every command's effect (`Steady`), the
array fault block by block, and what a step is. -/

set_option linter.unusedSimpArgs false

namespace Sys2Proof.Machine

/-- The waiting commands stand, the enables and the mode stay legal, and the array stands or its contents become unknown. -/
structure Steady (s t : State) : Prop where
  pending : t.pending = s.pending
  enables : evenLegal s.events → evenLegal t.events
  mode : stopLegal s.modeCtl → stopLegal t.modeCtl
  array : t.array = s.array ∨ t.array.cells = []

theorem Calm.steady {s t : State} (h : Calm s t) : Steady s t := ⟨h.pending, h.enables, h.mode, Or.inl h.array⟩

theorem Steady.settle {s t : State} (h : Steady s t) : Steady s (settle t) := by
  have r := settle_reaction t
  refine ⟨r.pending.trans h.pending, fun e => ?_, fun e => ?_, ?_⟩
  · have := congrArg (fun x => x.1.1) r.events
    simp only [eventsKept] at this
    have g := h.enables e
    unfold evenLegal at *; rw [this]; exact g
  · rcases r.mode with m | m
    · rw [m]; exact h.mode e
    · rw [m.2]; exact fun _ => rfl
  · rw [r.array]; exact h.array

theorem Steady.trans {s t u : State} (h : Steady s t) (k : Steady t u) : Steady s u := by
  refine ⟨k.pending.trans h.pending, fun e => k.enables (h.enables e), fun e => k.mode (h.mode e), ?_⟩
  rcases k.array with a | a
  · rw [a]; exact h.array
  · exact Or.inr a

theorem raise_steady {s t : State} {g : GlobalCause} (h : Steady s t) : Steady s (raise g t) := { h with }

theorem withSeq_steady {s t : State} {x : Seq} (h : Steady s t) : Steady s (t.withSeq x) := { h with }

theorem withPool_steady {s t : State} {x : Pool} (h : Steady s t) : Steady s (t.withPool x) := { h with }
/-! ### The array fault, block by block -/

theorem poolArrayFault_eq (t : State) : poolArrayFault t = t.withPool (poolArrayFault t).pool := by
  unfold poolArrayFault
  split <;> rfl

theorem pushArrayFault_eq (t : State) : pushArrayFault t = t.withPush (pushArrayFault t).push := by
  unfold pushArrayFault pushIdle
  split <;> rfl

theorem popArrayFault_eq (t : State) : popArrayFault t = t.withPop (popArrayFault t).pop := by
  unfold popArrayFault
  split <;> rfl

theorem queuesArrayFault_eq (t : State) : queuesArrayFault t = (t.withQueues (t.queues.map Queue.arrayFault)).withWindow
    (if t.window.qres = .pending then { t.window with qres := .badState } else t.window) := by
  unfold queuesArrayFault
  dsimp only
  split <;> rename_i h <;> simp only [withQueues_window] at h
  · simp [h, setQres]
  · simp only [h, if_false]
    rfl

theorem arrayFault_steady {s t : State} (h : Steady s t) : Steady s (arrayFault t) := by
  unfold arrayFault
  rw [popArrayFault_eq, pushArrayFault_eq, queuesArrayFault_eq, poolArrayFault_eq]
  exact ⟨h.pending, h.enables, fun _ _ => rfl, h.array⟩

theorem arrayFault_seq (t : State) : (arrayFault t).seq = t.seq.faulted := by
  unfold arrayFault
  rw [popArrayFault_eq, pushArrayFault_eq, queuesArrayFault_eq, poolArrayFault_eq]
  rfl

theorem arrayFault_array (t : State) : (arrayFault t).array = t.array := by
  unfold arrayFault
  rw [popArrayFault_eq, pushArrayFault_eq, queuesArrayFault_eq, poolArrayFault_eq]
  rfl

/-! ### The sequencer's operations and the commands -/

theorem takeUp_steady {s t : State} (h : Steady s t) : Steady s (takeUp t) := by
  unfold takeUp; split
  · exact arrayFault_steady h
  · exact raise_steady (withSeq_steady h)

theorem afterCompletion_steady {s t : State} {f} (h : Steady s t) : Steady s (afterCompletion f t) := by
  unfold afterCompletion; split
  · exact takeUp_steady h
  · exact withSeq_steady h

theorem deliver_steady {s t : State} {c u bs} (h : Steady s t) : Steady s (deliver c u bs t) := h.trans (deliver_calm (Calm.refl t)).steady

theorem arraySwitchOff_steady (s : State) : Steady s (arraySwitchOff s) := by
  unfold arraySwitchOff
  split
  · exact (setCommand_calm (Calm.refl s)).steady
  · have : Steady s (s.withSeq s.seq.switchedOff) := ⟨rfl, id, id, Or.inl rfl⟩
    have := this.trans (poolLeaves_calm (x := .unformatted) (Calm.refl _)).steady
    exact this.trans (setCommand_calm (clear_calm (reinitQueues_calm (poolReset_calm (Calm.refl _))))).steady

theorem requestConfig_steady (s : State) : Steady s (requestConfig s) := by
  unfold requestConfig
  split
  · unfold leaveHalted
    have u : Steady s (arrayUnknown (s.withSeq s.seq.switchedOff)) := ⟨rfl, id, id, Or.inr rfl⟩
    exact u.trans (modeTaken_calm (clear_calm (clear_calm (reinitQueues_calm (poolReset_calm (Calm.refl _)))))
      (fun _ => rfl)).steady
  · exact (setModeResult_calm (Calm.refl _)).steady

theorem arraySwitchOn_steady (s : State) : Steady s (arraySwitchOn s) := by
  unfold arraySwitchOn
  split
  · exact (setCommand_calm (Calm.refl s)).steady
  split
  · exact (setCommand_calm (Calm.refl s)).steady
  · exact ⟨rfl, id, id, Or.inr rfl⟩

theorem pushOpen_steady (q) (s : State) : Steady s (pushOpen q s) := by
  unfold pushOpen
  split
  · split
    · exact ⟨rfl, id, id, Or.inl rfl⟩
    · exact ⟨rfl, id, id, Or.inl rfl⟩
  all_goals exact (pushProtocol_calm (Calm.refl s)).steady

theorem pushControl_steady (q) (s : State) : Steady s (pushControl q s) := by
  unfold pushControl
  repeat' (first | exact (pushRepeat_calm (Calm.refl s)).steady | exact (pushEnd_calm (Calm.refl s)).steady | exact (pushCancelled_calm (Calm.refl s)).steady | exact pushOpen_steady _ _ | exact (pushProtocol_calm (Calm.refl s)).steady | split)

theorem modeRequest_steady (q) (s : State) : Steady s (modeRequest q s) := by
  unfold modeRequest
  repeat' (first | exact (requestRun_calm (Calm.refl s)).steady | exact (requestStop_calm (Calm.refl s)).steady | exact (requestAbort_calm (Calm.refl s)).steady | exact requestConfig_steady _ | exact (setModeResult_calm (Calm.refl s)).steady | split)

theorem globalCommand_steady (q) (s : State) : Steady s (globalCommand q stampCleared s) := by
  unfold globalCommand
  repeat' (first | exact arraySwitchOn_steady s | exact arraySwitchOff_steady s | exact (formatBegins_calm (Calm.refl s)).steady | exact (stampCleared_calm (Calm.refl s)).steady | exact (setCommand_calm (Calm.refl s)).steady | split)

theorem writeOwnRow_steady (o v) (s : State) : Steady s (writeOwnRow o v s) := by
  unfold writeOwnRow
  split
  · exact (pushData_calm (Calm.refl s)).steady
  · exact pushControl_steady _ _
  · exact (popControl_calm (Calm.refl s)).steady
  · exact (queueControl_calm (Calm.refl s)).steady
  · exact modeRequest_steady _ _
  · exact (writeEven_calm (Calm.refl s)).steady
  · exact (acknowledge_calm (Calm.refl s)).steady
  · exact (linkControl_calm (Calm.refl s)).steady
  · exact globalCommand_steady _ _
  · exact (Calm.refl s).steady

theorem readOwnRow_steady (o) (s : State) : Steady s (readOwnRow o s) := by
  unfold readOwnRow
  split
  · exact (readData_calm (Calm.refl s)).steady.settle
  · exact (readPstat_calm (Calm.refl s)).steady
  · exact (readEvid_calm (windowAccess_calm (Calm.refl s))).steady
  · exact (readEvq_calm (windowAccess_calm (Calm.refl s))).steady
  · exact (readLstat_calm (Calm.refl s)).steady
  · exact (Calm.refl s).steady

theorem windowAccess_steady (s : State) : Steady s (windowAccess s) := (windowAccess_calm (Calm.refl s)).steady

theorem confirmFront_steady (s : State) : Steady s (confirmFront s) := by
  unfold confirmFront
  split
  · exact (Calm.refl s).steady
  · dsimp only
    split
    · exact withSeq_steady (Calm.refl s).steady
    · exact deliver_steady (withSeq_steady (withSeq_steady (Calm.refl s).steady))

theorem alertRaised_steady (s : State) : Steady s (alertRaised s) := by
  unfold alertRaised
  dsimp only
  repeat' (first | exact (Calm.refl s).steady | exact withSeq_steady (Calm.refl s).steady | exact takeUp_steady (withSeq_steady (Calm.refl s).steady) | split)

theorem refreshExpired_steady (s : State) : Steady s (refreshExpired s) := by
  unfold refreshExpired
  dsimp only
  repeat' (first | exact (Calm.refl s).steady | exact withSeq_steady (Calm.refl s).steady | exact raise_steady (withSeq_steady (Calm.refl s).steady) | split)

theorem completions_steady (s : State) : Steady s (refreshDone s) ∧ Steady s (startClosed s) ∧ Steady s (startRefreshed s) ∧ Steady s (recoveryClosed s) := by
  refine ⟨?_, ?_, ?_, ?_⟩
  · unfold refreshDone; split
    · exact afterCompletion_steady (withSeq_steady (Calm.refl s).steady)
    · exact (Calm.refl s).steady
  · unfold startClosed; split
    · exact (withSeq_steady (Calm.refl s).steady)
    · exact (Calm.refl s).steady
  · unfold startRefreshed; split
    · exact afterCompletion_steady (withSeq_steady (Calm.refl s).steady)
    · exact (Calm.refl s).steady
  · unfold recoveryClosed; split
    · exact afterCompletion_steady (withSeq_steady (Calm.refl s).steady)
    · exact (Calm.refl s).steady
/-! The two accesses, against the state with the array as the access leaves it. -/

theorem accessDone_steady (c r reply) (s : State) : Steady (s.withArray (storeAccess s.array r (movedBytes s.array r reply))) (accessDone c r reply s) := by
  unfold accessDone
  exact afterCompletion_steady ⟨rfl, id, id, Or.inl rfl⟩

theorem reissueDone_steady (e : Entry) (reply) (s : State) : (∃ c r, e.op = .request c r ∧ Steady (s.withArray (storeAccess s.array r (movedBytes s.array r reply))) (reissueDone e reply s)) ∨ (e.op = .refresh ∧ Steady s (reissueDone e reply s)) := by
  unfold reissueDone
  dsimp only
  split
  · next h => exact Or.inr ⟨h, afterCompletion_steady (withSeq_steady (Calm.refl s).steady)⟩
  · next c r h => exact Or.inl ⟨c, r, h, afterCompletion_steady ⟨rfl, id, id, Or.inl rfl⟩⟩

/-- A step that answers next is a command on the state, or on it without its front command, or a reference clock. -/
theorem step_next {s t : State} (e : step s = .next t) :
    (∃ c u, (u = s ∨ ∃ r, u = s.withPending r) ∧ exec c u = .next t) ∨ t = clock s := by
  unfold step at e
  split at e
  · next c r _ => exact Or.inl ⟨c, _, Or.inr ⟨r, rfl⟩, e⟩
  · unfold tick at e
    split at e
    · next c _ => exact Or.inl ⟨c, s, Or.inl rfl, e⟩
    · exact Or.inr (Host.Outcome.next.inj e).symm

end Sys2Proof.Machine
end

