-- ==== Sys2Proof/Laws/Memory.lean ====
section
/-! SUPPORT. The array's listed bytes: a write keeps the canonical form, reads back what was written and leaves every
other address as it was. -/

namespace Sys2Proof.Machine

/-! ### The canonical form -/

theorem memAbove_mono {lo hi : Nat} (h : lo ≤ hi) {m : List Host.Cell} (w : memAbove hi m = true) :
    memAbove lo m = true := by
  cases m with
  | nil => rfl
  | cons c rest =>
    simp only [memAbove, Bool.and_eq_true, decide_eq_true_eq] at w ⊢
    exact ⟨le_trans h w.1, w.2⟩

theorem memWrite_above (m : List Host.Cell) (a : Nat) (v : Byte) :
    ∀ lo, lo ≤ a → memAbove lo m = true → memAbove lo (memWrite m a v) = true := by
  induction m with
  | nil =>
    intro lo h _
    simp only [memWrite, memAbove, Bool.and_true, decide_eq_true_eq]
    exact h
  | cons c rest ih =>
    intro lo h w
    simp only [memAbove, Bool.and_eq_true, decide_eq_true_eq] at w
    unfold memWrite
    split
    · next lt =>
      simp only [memAbove, Bool.and_eq_true, decide_eq_true_eq]
      exact ⟨h, lt, w.2⟩
    · split
      · next e =>
        subst e
        simp only [memAbove, Bool.and_eq_true, decide_eq_true_eq]
        exact ⟨h, w.2⟩
      · simp only [memAbove, Bool.and_eq_true, decide_eq_true_eq]
        exact ⟨w.1, ih _ (by omega) w.2⟩

/-- A write keeps the canonical form. -/
theorem memWrite_wf {m : List Host.Cell} (a : Nat) (v : Byte) (w : Memory.wf m = true) :
    Memory.wf (memWrite m a v) = true := memWrite_above m a v 0 (Nat.zero_le a) w

/-- A write of bytes keeps the canonical form. -/
theorem arrayPut_wf (bs : List Byte) : ∀ {m : List Host.Cell} (a : Nat), Memory.wf m = true →
    Memory.wf (arrayPut m a bs) = true := by
  induction bs with
  | nil => exact fun _ w => w
  | cons b bs ih => exact fun a w => ih (a + 1) (memWrite_wf a b w)

theorem reset_memory_wf : Memory.wf State.reset.array.cells = true := rfl

/-! ### Reading after a write -/

/-- Nothing below the bound is listed. -/
theorem memRead_below {m : List Host.Cell} : ∀ {lo a : Nat}, a < lo → memAbove lo m = true → memRead m a = none := by
  induction m with
  | nil => exact fun _ _ => rfl
  | cons c rest ih =>
    intro lo a h w
    simp only [memAbove, Bool.and_eq_true, decide_eq_true_eq] at w
    have ne : a ≠ c.1 := by omega
    simp only [memRead, ne, ↓reduceIte]
    exact ih (by omega) w.2

/-- A byte reads as it was written; every other byte reads as before. -/
theorem memRead_memWrite (m : List Host.Cell) (a k : Nat) (v : Byte) :
    memRead (memWrite m a v) k = if k = a then some v else memRead m k := by
  induction m with
  | nil => rfl
  | cons c rest ih =>
    unfold memWrite
    split
    · rfl
    · split
      · next e =>
        subst e
        simp only [memRead]
        split <;> rfl
      · next ne =>
        simp only [memRead, ih]
        split
        · next e =>
          subst e
          exact (if_neg (fun e => ne e.symm)).symm
        · rfl

/-- Bytes written from `a` on leave every address outside them as it was. -/
theorem memRead_arrayPut_outside (bs : List Byte) : ∀ (m : List Host.Cell) (a k : Nat),
    (k < a ∨ a + bs.length ≤ k) → memRead (arrayPut m a bs) k = memRead m k := by
  induction bs with
  | nil => exact fun _ _ _ _ => rfl
  | cons b bs ih =>
    intro m a k h
    have l : (b :: bs).length = bs.length + 1 := rfl
    have ne : k ≠ a := by omega
    rw [arrayPut, ih _ _ _ (by omega), memRead_memWrite, if_neg ne]

/-- Bytes written from `a` on read back. -/
theorem memRead_arrayPut_inside (bs : List Byte) : ∀ (m : List Host.Cell) (a i : Nat) (h : i < bs.length),
    memRead (arrayPut m a bs) (a + i) = some bs[i] := by
  induction bs with
  | nil => exact fun _ _ _ h => absurd h (Nat.not_lt_zero _)
  | cons b bs ih =>
    intro m a i h
    cases i with
    | zero => rw [arrayPut, memRead_arrayPut_outside _ _ _ _ (Or.inl (by omega)), memRead_memWrite, if_pos (by omega)]; rfl
    | succ i =>
      have e : a + (i + 1) = a + 1 + i := by omega
      rw [arrayPut, e, ih _ _ i (Nat.lt_of_succ_lt_succ h)]
      rfl

/-- What an access leaves in the array outside the bytes it moves. -/
theorem arrayByteAt_storeAccess (m : ArrayMem) (a k : Nat) (bs : List Byte) (h : k < a ∨ a + bs.length ≤ k) :
    arrayByteAt { m with cells := arrayPut m.cells a bs } k = arrayByteAt m k := by
  unfold arrayByteAt
  dsimp only
  rw [memRead_arrayPut_outside _ _ _ _ h]

end Sys2Proof.Machine
end

