-- ==== Sys2Proof/Laws/PerInstr.lean ====
section
/-! SUPPORT. One law per command: a well-formed row that is a register write is the row of that write, so that no write is
spelled by two rows. -/

namespace Sys2Proof.Laws.WriteRow

/-- The row is the one its write names (11 Table 11-1). -/
def Statement (i : Instr) : Prop := i.wf = true → ∀ o v, i.writeOf = some (o, v) → rowOfWrite o v = i

/-- A row that is no write. -/
theorem noWrite {i : Instr} (h : i.writeOf = none) : Statement i := by
  intro _ o v e
  rw [h] at e
  exact nomatch e

/-- A row that is the write of a fixed offset and byte. -/
theorem fixedWrite {i : Instr} {o : Fin 32} {v : Byte} (h : i.writeOf = some (o, v)) (r : rowOfWrite o v = i) :
    Statement i := by
  intro _ p w e
  rw [h, Option.some.injEq, Prod.mk.injEq] at e
  rw [← e.1, ← e.2]
  exact r

/-- A row for undefined codes. -/
theorem codeWrite {f : Byte → Instr} {o : Fin 32} {c : Byte} (h : (f c).writeOf = some (o, c))
    (r : (f c).wf = true → rowOfWrite o c = f c) : Statement (f c) := by
  intro w p v e
  rw [h, Option.some.injEq, Prod.mk.injEq] at e
  rw [← e.1, ← e.2]
  exact r w

theorem reset : Statement .reset := noWrite rfl

theorem dataWrite (b : Byte) : Statement (.dataWrite b) := fixedWrite rfl rfl

theorem dataRead : Statement .dataRead := noWrite rfl

theorem pstatRead : Statement .pstatRead := noWrite rfl

theorem lstatRead : Statement .lstatRead := noWrite rfl

theorem pctlOpen (q : QId) : Statement (.pctlOpen q) := fixedWrite rfl (by revert q; decide +kernel)

theorem pctlRepeat (n : Fin 64) : Statement (.pctlRepeat n) := fixedWrite rfl (by revert n; decide +kernel)

theorem pctlEnd : Statement .pctlEnd := fixedWrite rfl rfl

theorem pctlCancel : Statement .pctlCancel := fixedWrite rfl rfl

theorem pctlUndefinedCode (code : Byte) : Statement (.pctlUndefinedCode code) :=
  codeWrite (f := .pctlUndefinedCode) rfl (by revert code; decide +kernel)

theorem octlSelect (q : QId) : Statement (.octlSelect q) := fixedWrite rfl (by revert q; decide +kernel)

theorem octlRelease : Statement .octlRelease := fixedWrite rfl rfl

theorem octlReturn : Statement .octlReturn := fixedWrite rfl rfl

theorem octlRewind : Statement .octlRewind := fixedWrite rfl rfl

theorem octlUndefinedCode (code : Byte) : Statement (.octlUndefinedCode code) :=
  codeWrite (f := .octlUndefinedCode) rfl (by revert code; decide +kernel)

theorem qcmdFetch : Statement .qcmdFetch := fixedWrite rfl rfl

theorem qcmdStore : Statement .qcmdStore := fixedWrite rfl rfl

theorem qcmdEnable : Statement .qcmdEnable := fixedWrite rfl rfl

theorem qcmdDisable : Statement .qcmdDisable := fixedWrite rfl rfl

theorem qcmdHold : Statement .qcmdHold := fixedWrite rfl rfl

theorem qcmdResume : Statement .qcmdResume := fixedWrite rfl rfl

theorem qcmdFlush : Statement .qcmdFlush := fixedWrite rfl rfl

theorem qcmdClearfault : Statement .qcmdClearfault := fixedWrite rfl rfl

theorem qcmdUndefinedCode (code : Byte) : Statement (.qcmdUndefinedCode code) :=
  codeWrite (f := .qcmdUndefinedCode) rfl (by revert code; decide +kernel)

theorem modeRun : Statement .modeRun := fixedWrite rfl rfl

theorem modeStop : Statement .modeStop := fixedWrite rfl rfl

theorem modeAbort : Statement .modeAbort := fixedWrite rfl rfl

theorem modeConfig : Statement .modeConfig := fixedWrite rfl rfl

theorem modeUndefinedCode (code : Byte) : Statement (.modeUndefinedCode code) :=
  codeWrite (f := .modeUndefinedCode) rfl (by revert code; decide +kernel)

theorem evidRead : Statement .evidRead := noWrite rfl

theorem evqRead : Statement .evqRead := noWrite rfl

theorem evenWrite (v : Byte) : Statement (.evenWrite v) := fixedWrite rfl rfl

theorem evack (code : Byte) : Statement (.evack code) := fixedWrite rfl rfl

theorem lcmdStart : Statement .lcmdStart := fixedWrite rfl rfl

theorem lcmdStop : Statement .lcmdStop := fixedWrite rfl rfl

theorem lcmdUndefinedCode (code : Byte) : Statement (.lcmdUndefinedCode code) :=
  codeWrite (f := .lcmdUndefinedCode) rfl (by revert code; decide +kernel)

theorem arrayOn : Statement .arrayOn := fixedWrite rfl rfl

theorem arrayOff : Statement .arrayOff := fixedWrite rfl rfl

theorem format : Statement .format := fixedWrite rfl rfl

theorem stampClear : Statement .stampClear := fixedWrite rfl rfl

theorem cmdUndefinedCode (code : Byte) : Statement (.cmdUndefinedCode code) :=
  codeWrite (f := .cmdUndefinedCode) rfl (by revert code; decide +kernel)

theorem registerWriteOther (offset : Fin 32) (v : Byte) : Statement (.registerWriteOther offset v) := by
  refine fun w p u e => ?_
  simp only [Instr.writeOf, Option.some.injEq, Prod.mk.injEq] at e
  rw [← e.1, ← e.2]
  have k : writeHasOwnRow offset = false := by simpa only [Instr.wf, Bool.not_eq_true'] using w
  obtain ⟨n, h⟩ := offset
  unfold rowOfWrite
  interval_cases n <;> first | rfl | exact Bool.noConfusion (show true = false from k)

theorem alert : Statement .alert := noWrite rfl

theorem lreqRise : Statement .lreqRise := noWrite rfl

theorem lreqFall : Statement .lreqFall := noWrite rfl

theorem peerAccept : Statement .peerAccept := noWrite rfl

theorem peerReject : Statement .peerReject := noWrite rfl

theorem lackRise : Statement .lackRise := noWrite rfl

theorem lackFall : Statement .lackFall := noWrite rfl

theorem linkBegin : Statement .linkBegin := noWrite rfl

theorem inboundDataByte (b : Byte) : Statement (.inboundDataByte b) := noWrite rfl

theorem inboundEnd : Statement .inboundEnd := noWrite rfl

theorem inboundAbort : Statement .inboundAbort := noWrite rfl

theorem strayByte (control : Bool) (b : Byte) : Statement (.strayByte control b) := noWrite rfl

theorem lstbFall : Statement .lstbFall := noWrite rfl

theorem linkTimeout : Statement .linkTimeout := noWrite rfl

theorem idleGrantExpiry : Statement .idleGrantExpiry := noWrite rfl

theorem stampTick : Statement .stampTick := noWrite rfl

theorem refreshTimerExpiry : Statement .refreshTimerExpiry := noWrite rfl

theorem confirmation : Statement .confirmation := noWrite rfl

theorem accessCompletion (r : ArrayReply) : Statement (.accessCompletion r) := noWrite rfl

theorem refreshCompletion : Statement .refreshCompletion := noWrite rfl

theorem startCloseAllDone : Statement .startCloseAllDone := noWrite rfl

theorem startRefreshDone : Statement .startRefreshDone := noWrite rfl

theorem recoveryCloseAllDone : Statement .recoveryCloseAllDone := noWrite rfl

theorem reissueCompletion (r : ArrayReply) : Statement (.reissueCompletion r) := noWrite rfl

theorem registerReadOther (offset : Fin 32) : Statement (.registerReadOther offset) := noWrite rfl

end Sys2Proof.Laws.WriteRow
end

