-- ==== Sys2Proof/Laws/Sequencer.lean ====
section
/-! SUPPORT. The sequencer stays legal (`SeqLegal`) over its own operations; every other one leaves what `SeqLegal` looks
at. -/

set_option linter.unusedSimpArgs false

namespace Sys2Proof.Machine

theorem legal_view {x y : Seq} (h : SeqLegal x) (e : seqView y = seqView x) : SeqLegal y := by
  simp only [seqView, Prod.mk.injEq] at e
  obtain ⟨⟨a, b, c⟩, d, f, g⟩ := e
  obtain ⟨h1, h2, h3, h4, h5, h6, h7⟩ := h
  constructor <;> simp only [a, b, c, d, f, g] <;> assumption

theorem calm_legal {s t : State} (h : SeqLegal s.seq) (c : Calm s t) : SeqLegal t.seq := legal_view h c.seq

theorem settle_legal {s : State} (h : SeqLegal s.seq) : SeqLegal (settle s).seq := by
  have r := settle_reaction s
  have k := r.seq
  simp only [seqKept, Prod.mk.injEq] at k
  rcases r.op with ⟨a, b⟩ | ⟨a, b, c⟩
  · refine legal_view h ?_
    simp only [seqView, a, b, k]
  · have ro := h.replayOnly (by rw [a]; decide)
    have op : s.seq.op = none := by
      have := h.fits; rw [a] at this
      cases o : s.seq.op with
      | none => rfl
      | some o' => rw [o] at this; rcases o' with ⟨o', n⟩; cases o' <;> cases this
    have al : s.seq.alertPending = false := by
      cases e : s.seq.alertPending with
      | false => rfl
      | true => exact absurd op (h.pendingOnly e)
    have rp := h.replays
    rw [op, ro] at rp
    rcases c with ⟨cl, n, st, o⟩ | ⟨n, st, o⟩
    all_goals
      constructor
      · rw [st, o]; rfl
      · rw [k.1.2.1]; exact h.debt
      · rw [k.1.2.2.1, k.1.2.2.2, o, ro]; simp [placeOf]; omega
      · rw [k.1.2.2.1, k.1.2.2.2, o, ro]; simpa [reissued] using rp
      · intro _; rw [k.1.2.2.2, ro]
      · intro z; rw [st] at z; cases z
      · intro z; rw [o]; simp

theorem takeUp_legal {t : State} (d : t.seq.debt ≤ 8) (c : t.seq.unconfirmed.length + t.seq.replay.length ≤ 4) (r : ∀ e ∈ t.seq.unconfirmed ++ t.seq.replay, e.replays ≤ 3) : SeqLegal (takeUp t).seq := by
  unfold takeUp
  split
  · rw [arrayFault_seq]
    constructor <;> simp [Seq.faulted, opFits, placeOf, reissued, Config.maxDebt, d]
  · next l =>
    simp only [lastStrike, Bool.not_eq_true, List.any_eq_false, beq_iff_eq, Config.maxReplay] at l
    show SeqLegal t.seq.recovering
    constructor
    · rfl
    · exact d
    · simp [Seq.recovering, placeOf, Config.unconfirmedMax]; exact c
    · intro e he
      simp only [Seq.recovering, List.nil_append, reissued, Option.map_some, List.append_nil, List.mem_append, List.mem_map] at he
      rcases he with ⟨a, ha, rfl⟩ | he
      · have := l a ha
        have := r a (List.mem_append_left _ ha)
        simp only [Entry.struck, Config.maxReplay]; omega
      · exact r e (List.mem_append_right _ he)
    · intro z; exact absurd rfl z
    · intro z; cases z
    · intro z; cases z

theorem idle_legal {x : Seq} (d : x.debt ≤ 8) (c : x.unconfirmed.length ≤ 4) (rp : x.replay = []) (r : ∀ e ∈ x.unconfirmed, e.replays ≤ 3) (al : x.alertPending = false) : SeqLegal x.idle := by
  constructor
  · rfl
  · exact d
  · simp [Seq.idle, placeOf, rp, Config.unconfirmedMax]; exact c
  · simpa [Seq.idle, reissued, rp, Config.maxReplay] using r
  · intro _; exact rp
  · intro z; cases z
  · intro z; rw [show x.idle.alertPending = false from al] at z; cases z

theorem reissueNext_legal {x : Seq} (st : x.state = .recovering) (d : x.debt ≤ 8) (c : x.unconfirmed.length + x.replay.length ≤ 4) (r : ∀ e ∈ x.unconfirmed ++ x.replay, e.replays ≤ 3) (al : x.alertPending = false) : SeqLegal (reissueNext x) := by
  unfold reissueNext
  split
  · next h =>
    exact idle_legal d (by rw [h] at c; simpa using c) h (by rw [h] at r; simpa using r) al
  · next e rest h =>
    rw [h] at c r
    split
    all_goals
      constructor
      · simp only [closeBanks, st]; rfl
      · exact d
      · simp [placeOf, closeBanks, Config.unconfirmedMax] at c ⊢; omega
      · simp only [closeBanks, reissued, Option.map_some]
        intro f hf; apply r; simp at hf ⊢; tauto
      · intro z; exact absurd (by simp only [closeBanks, st]) z
      · intro z; simp only [closeBanks, st] at z; cases z
      · intro z; simp [closeBanks]

theorem afterAccess_legal {t : State} (d : t.seq.debt ≤ 8) (c : t.seq.unconfirmed.length ≤ 4) (rp : t.seq.replay = []) (r : ∀ e ∈ t.seq.unconfirmed, e.replays ≤ 3) : SeqLegal (afterCompletion Seq.idle t).seq := by
  unfold afterCompletion
  split
  · exact takeUp_legal d (by rw [rp]; simpa using c) (by rw [rp]; simpa using r)
  · next al => exact idle_legal d c rp r (by simpa using al)

theorem afterReissue_legal {t : State} (st : t.seq.state = .recovering) (d : t.seq.debt ≤ 8) (c : t.seq.unconfirmed.length + t.seq.replay.length ≤ 4) (r : ∀ e ∈ t.seq.unconfirmed ++ t.seq.replay, e.replays ≤ 3) : SeqLegal (afterCompletion reissueNext t).seq := by
  unfold afterCompletion
  split
  · exact takeUp_legal d c r
  · next al => exact reissueNext_legal st d c r (by simpa using al)

theorem fits_state {x : Seq} (h : SeqLegal x) {o n} (e : x.op = some (o, n)) : x.state = match o with | .access _ => .accessing | .refresh => .refreshing | .startCloseAll | .startRefresh => .starting | .recoveryCloseAll | .reissue _ => .recovering := by
  have := h.fits; rw [e] at this
  cases s : x.state <;> rw [s] at this <;> cases o <;> first | rfl | cases this

theorem accessDone_legal {c r q} {s : State} (h : SeqLegal s.seq) {n} (e : s.seq.op = some (.access c, n)) : SeqLegal (accessDone c r q s).seq := by
  have st := fits_state h e
  have rp := h.replayOnly (by rw [st]; intro z; cases z)
  have c4 := h.count; have rr := h.replays
  rw [e, rp] at c4 rr
  simp [placeOf, reissued, Config.unconfirmedMax, Config.maxReplay] at c4 rr
  unfold accessDone
  refine afterAccess_legal h.debt ?_ rp ?_
  · simp [Seq.join]; omega
  · intro en hen
    simp [Seq.join] at hen
    rcases hen with hen | rfl
    · exact rr en hen
    · simp [newEntry]

theorem reissueDone_legal {en q} {s : State} (h : SeqLegal s.seq) {n} (e : s.seq.op = some (.reissue en, n)) : SeqLegal (reissueDone en q s).seq := by
  have st := fits_state h e
  have c4 := h.count; have rr := h.replays
  rw [e] at c4 rr
  simp [placeOf, reissued, Config.unconfirmedMax, Config.maxReplay] at c4 rr
  unfold reissueDone
  dsimp only
  split
  all_goals
    refine afterReissue_legal st h.debt ?_ ?_
    · simp [Seq.join]; omega
    · intro f hf
      simp [Seq.join] at hf
      rcases hf with hf | rfl | hf
      · exact rr f (Or.inl hf)
      · exact rr en (Or.inr (Or.inr rfl))
      · exact rr f (Or.inr (Or.inl hf))

theorem refreshDone_legal {s : State} (h : SeqLegal s.seq) : SeqLegal (refreshDone s).seq := by
  unfold refreshDone
  split
  · next n e =>
    have st := fits_state h e
    have rp := h.replayOnly (by rw [st]; intro z; cases z)
    have c4 := h.count; have rr := h.replays
    rw [e, rp] at c4 rr
    simp [placeOf, reissued, Config.unconfirmedMax, Config.maxReplay] at c4 rr
    refine afterAccess_legal ?_ ?_ rp ?_
    · have := h.debt; simp [Config.maxDebt] at this; simp; omega
    · simp [Seq.join]; omega
    · intro en hen
      simp [Seq.join] at hen
      rcases hen with hen | rfl
      · exact rr en hen
      · simp [newEntry]
  · exact h

theorem startRefreshed_legal {s : State} (h : SeqLegal s.seq) : SeqLegal (startRefreshed s).seq := by
  unfold startRefreshed
  split
  · next n e =>
    have st := fits_state h e
    have rp := h.replayOnly (by rw [st]; intro z; cases z)
    have c4 := h.count; have rr := h.replays
    rw [e, rp] at c4 rr
    simp [placeOf, reissued, Config.unconfirmedMax, Config.maxReplay] at c4 rr
    refine afterAccess_legal h.debt ?_ rp ?_
    · simp [Seq.join]; omega
    · intro en hen
      simp [Seq.join] at hen
      rcases hen with hen | rfl
      · exact rr en hen
      · simp [newEntry]
  · exact h

theorem startClosed_legal {s : State} (h : SeqLegal s.seq) : SeqLegal (startClosed s).seq := by
  unfold startClosed
  split
  · next n e =>
    have st := fits_state h e
    have c4 := h.count; have rr := h.replays
    rw [e] at c4 rr
    constructor
    · simp [closeBanks, st, opFits]
    · exact h.debt
    · exact c4
    · exact rr
    · exact h.replayOnly
    · exact h.offEmpty
    · intro _; simp
  · exact h

theorem recoveryClosed_legal {s : State} (h : SeqLegal s.seq) : SeqLegal (recoveryClosed s).seq := by
  unfold recoveryClosed
  split
  · next n e =>
    have st := fits_state h e
    have c4 := h.count; have rr := h.replays
    rw [e] at c4 rr
    simp [placeOf, reissued, Config.unconfirmedMax, Config.maxReplay] at c4 rr
    refine afterReissue_legal st h.debt ?_ ?_
    · exact c4
    · intro f hf; apply rr; simpa [closeBanks] using hf
  · exact h

theorem alertRaised_legal {s : State} (h : SeqLegal s.seq) : SeqLegal (alertRaised s).seq := by
  have hop : ∀ st, s.seq.state = st → st ≠ .off → st ≠ .ready → st ≠ .fault → s.seq.op ≠ none := by
    intro st e a b c o
    have := h.fits; rw [e, o] at this
    cases st <;> first | exact a rfl | exact b rfl | exact c rfl | cases this
  have pe : s.seq.op ≠ none → SeqLegal { s.seq.counted with alertPending := true } := by
    intro o
    exact ⟨h.fits, h.debt, h.count, h.replays, h.replayOnly, h.offEmpty, fun _ => o⟩
  unfold alertRaised
  dsimp only
  split
  · exact h
  · exact h
  · next e => split
              · exact pe (hop _ e (by decide) (by decide) (by decide))
              · exact legal_view h rfl
  · next e =>
    split
    · exact legal_view h rfl
    · have := h.count; have rr := h.replays
      exact takeUp_legal h.debt (le_trans (Nat.le_add_right _ _) this) (fun e he => rr e (List.mem_append_left _ he))
  all_goals (next e => exact pe (hop _ e (by decide) (by decide) (by decide)))

theorem refreshExpired_legal {s : State} (h : SeqLegal s.seq) : SeqLegal (refreshExpired s).seq := by
  unfold refreshExpired
  split
  · exact h
  · dsimp only
    split
    · next d => exact ⟨h.fits, d, h.count, h.replays, h.replayOnly, h.offEmpty, h.pendingOnly⟩
    · exact legal_view h rfl

/-- While an ALERT is pending no alert window runs. -/
theorem windowed_pending {x : Seq} (h : x.alertPending = true) : windowed x = [] := if_pos h

/-- With no ALERT pending every entry's alert window runs. -/
theorem windowed_running {x : Seq} (h : x.alertPending = false) : windowed x = x.unconfirmed := by simp [windowed, h]

/-- An entry that may be confirmed is in the unconfirmed list, and no ALERT is pending. -/
theorem windowed_cons {x : Seq} {e : Entry} {rest : List Entry} (h : windowed x = e :: rest) :
    x.alertPending = false ∧ x.unconfirmed = e :: rest := by
  unfold windowed at h
  split at h
  · cases h
  · next a => exact ⟨by simpa using a, h⟩

theorem confirmFront_legal {s : State} (h : SeqLegal s.seq) : SeqLegal (confirmFront s).seq := by
  unfold confirmFront
  split
  · exact h
  · next e rest hw =>
    have hu := (windowed_cons hw).2
    have key : SeqLegal (s.withSeq { s.seq with unconfirmed := rest }).seq := by
      have c := h.count; have r := h.replays
      rw [hu] at c r
      refine ⟨h.fits, h.debt, ?_, ?_, h.replayOnly, ?_, h.pendingOnly⟩
      · simp at c ⊢; omega
      · intro f hf; apply r; simp at hf ⊢; tauto
      · intro z; have := h.offEmpty z; rw [hu] at this; cases this
    dsimp only
    split
    · exact key
    · exact calm_legal (s := State.setSlot _ _ _) (legal_view key rfl) (deliver_calm (Calm.refl _))

theorem arraySwitchOn_legal {s : State} (h : SeqLegal s.seq) : SeqLegal (arraySwitchOn s).seq := by
  unfold arraySwitchOn
  split
  · exact legal_view h rfl
  split
  · exact legal_view h rfl
  · next o =>
    have o : s.seq.state = .off := not_not.1 o
    have u := h.offEmpty o
    have r := h.replayOnly (by rw [o]; decide)
    constructor
    · rfl
    · exact h.debt
    · show s.seq.unconfirmed.length + s.seq.replay.length + 1 ≤ 4
      rw [u, r]; simp
    · intro e he
      have : e ∈ s.seq.unconfirmed ++ s.seq.replay ++ [] := he
      rw [u, r] at this; simp at this
    · intro _; exact r
    · intro z; cases z
    · intro _; exact Option.some_ne_none _

theorem switchedOff_legal {x : Seq} : SeqLegal x.switchedOff := by
  constructor <;> simp [Seq.switchedOff, closeBanks, opFits, placeOf, reissued]

theorem arraySwitchOff_legal {s : State} (h : SeqLegal s.seq) : SeqLegal (arraySwitchOff s).seq := by
  unfold arraySwitchOff
  split
  · exact legal_view h rfl
  · refine calm_legal (s := s.withSeq s.seq.switchedOff) switchedOff_legal ?_
    exact setCommand_calm (clear_calm (reinitQueues_calm (poolReset_calm (poolLeaves_calm (Calm.refl _)))))

theorem requestConfig_legal {s : State} (h : SeqLegal s.seq) : SeqLegal (requestConfig s).seq := by
  unfold requestConfig
  split
  · exact switchedOff_legal
  · exact h

theorem pushOpen_legal {q} {s : State} (h : SeqLegal s.seq) : SeqLegal (pushOpen q s).seq := by
  unfold pushOpen
  split
  · split <;> exact h
  all_goals exact h

end Sys2Proof.Machine
end

