-- ==== Sys2Proof/Tests/Slice0.lean ====
section
/-! SUPPORT. Tests on small states: the check of well-formed terms refuses an ill-formed one, single commands act as the
spec says, and the hypotheses of every statement of Certificates/Slice0/Obligations.lean are met by a state, clause by
clause (test_<Name>_inputs). -/

set_option Elab.async false

namespace Sys2Proof.Tests

open Sys2Proof Sys2Proof.Machine

/-! ### Small states -/

/-- The reset state in a mode. -/
def inMode (m : Mode) : State := State.reset.withModeCtl { mode := m, stop := none, last := .none }

/-- The push context in a state, with n staged bytes, an accepted length and an armed repeat. -/
def pushing (st : PushState) (n accepted : Nat) (armed : Option Nat) : State :=
  State.reset.withPush
    { Push.reset with state := st, w := { Writer.reset with buf := List.replicate n 0 }, accepted := accepted
                      armed := armed }

/-- The pop context in a state on queue 0, with OREM and the bytes of its FIFO. -/
def popping (st : PopState) (remaining : Nat) (buf : List Byte) : State :=
  State.reset.withPop
    { Pop.reset with state := st, r := { Reader.reset with queue := some 0, header := some { block := 0, offset := 4 }
                                                           remaining := remaining, buf := buf } }

/-- A page selected, a field and a value staged, in a state. -/
def staged (qsel qfld : Byte) (v : Nat) (s : State) : State :=
  s.withWindow { s.window with qsel := qsel, qfld := qfld, qv0 := byteOf v 2, qv1 := byteOf v 1, qv2 := byteOf v 0 }

/-- The value that is staged. -/
def stagedIn (s : State) : Nat :=
  s.window.qv0.toNat * 65536 + s.window.qv1.toNat * 256 + s.window.qv2.toNat

/-- Queue 0 in a state, with changes. -/
def queueIn (st : QState) (f : Queue → Queue) (s : State) : State := s.setQueue 0 (f { Queue.reset with state := st })

/-- The link in a state. -/
def linking (st : LinkState) : State := State.reset.withLink { Link.reset with state := st }

/-- The sequencer in a state with an operation. -/
def sequencing (st : SeqState) (op : Option (ArrayOp × Nat)) : State :=
  State.reset.withSeq { Seq.reset with state := st, op := op }

/-- A read and a write of 4 bytes of a block. -/
def aRead (b : Nat) : Request := readRequest .headerRead { block := b, offset := 4 } 4
def aWrite (b : Nat) : Request := writeRequest .burst { block := b, offset := 4 } [1, 2, 3, 4]

/-- An entry of the unconfirmed list. -/
def anEntry (op : Operation) (replays : Nat) : Entry := { op := op, bytes := [], replays := replays, window := 16 }

/-- A command that answers a next state. -/
def Goes (c : Instr) (s : State) : Prop := ∃ t, exec c s = .next t

/-! ### Well-formed terms -/

theorem test_wf_pctl : (Instr.pctlUndefinedCode 0x41).wf = false ∧ (Instr.pctlUndefinedCode 0x42).wf = true
    ∧ (Instr.pctlUndefinedCode 0x5F).wf = true ∧ (Instr.pctlUndefinedCode 0x60).wf = false
    ∧ (Instr.pctlUndefinedCode 0x77).wf = false ∧ (Instr.pctlUndefinedCode 0x78).wf = true := by decide

theorem test_wf_octl : (Instr.octlUndefinedCode 0x00).wf = true ∧ (Instr.octlUndefinedCode 0x01).wf = false
    ∧ (Instr.octlUndefinedCode 0x04).wf = true ∧ (Instr.octlUndefinedCode 0x20).wf = false
    ∧ (Instr.octlUndefinedCode 0x37).wf = false ∧ (Instr.octlUndefinedCode 0x38).wf = true := by decide

theorem test_wf_qcmd : (Instr.qcmdUndefinedCode 0x00).wf = true ∧ (Instr.qcmdUndefinedCode 0x01).wf = false
    ∧ (Instr.qcmdUndefinedCode 0x08).wf = false ∧ (Instr.qcmdUndefinedCode 0x09).wf = true := by decide

theorem test_wf_mode : (Instr.modeUndefinedCode 0x00).wf = true ∧ (Instr.modeUndefinedCode 0x01).wf = false
    ∧ (Instr.modeUndefinedCode 0x04).wf = false ∧ (Instr.modeUndefinedCode 0x05).wf = true := by decide

theorem test_wf_lcmd : (Instr.lcmdUndefinedCode 0x00).wf = true ∧ (Instr.lcmdUndefinedCode 0x02).wf = false
    ∧ (Instr.lcmdUndefinedCode 0x03).wf = true := by decide

theorem test_wf_cmd : (Instr.cmdUndefinedCode 0x00).wf = true ∧ (Instr.cmdUndefinedCode 0x04).wf = false
    ∧ (Instr.cmdUndefinedCode 0x05).wf = true := by decide

theorem test_wf_registers : (Instr.registerWriteOther 0x01 0).wf = false ∧ (Instr.registerWriteOther 0x1F 0).wf = true
    ∧ (Instr.registerReadOther 0x18).wf = false ∧ (Instr.registerReadOther 0x1F).wf = true := by decide

theorem test_wf_reply : (Instr.accessCompletion (.otherwise (List.replicate 33 0))).wf = false
    ∧ (Instr.accessCompletion (.otherwise (List.replicate 32 0))).wf = true
    ∧ (Instr.reissueCompletion (.otherwise (List.replicate 33 0))).wf = false := by decide

/-! ### Single commands -/

theorem test_open_in_run : ∃ t, exec (.pctlOpen 3) ((inMode .run).setQueue 3 { Queue.reset with state := .active })
    = .next t ∧ t.push.state = .awaitTag ∧ t.push.last = .opened ∧ (t.queue 3).openRec = some .push
      ∧ pstatStatus t.push = 0x11 := ⟨_, rfl, by decide +kernel⟩

theorem test_open_off_queue : ∃ t, exec (.pctlOpen 3) (inMode .run) = .next t ∧ t.push.state = .idle
    ∧ t.push.last = .badState ∧ (Cause.global .pushRefused).isPending t = true := ⟨_, rfl, by decide +kernel⟩

theorem test_fetch_block_limit : ∃ t, exec .qcmdFetch (staged 0 3 0 State.reset) = .next t
    ∧ stagedIn t = 64 ∧ t.window.qres = .ok := ⟨_, rfl, by decide +kernel⟩

theorem test_store_watermark : ∃ t, exec .qcmdStore (staged 0 4 65535 State.reset) = .next t
    ∧ (t.queue 0).watermark = 65535 := ⟨_, rfl, by decide +kernel⟩

theorem test_evid_of_two_causes : ∃ t, exec .evidRead (raise .pushProtocol (raise .modeDone State.reset)) = .next t
    ∧ t.window.dataOut = some 0x0B ∧ (Cause.global .modeDone).isPending t = true
    ∧ (Cause.global .pushProtocol).isPending t = true := ⟨_, rfl, by decide +kernel⟩

theorem test_link_word : classifyLink 131072 [0x00, 0x00, 0x05, 0xFA] = .names 5
    ∧ classifyLink 131072 [0xFF, 0xFF, 0xFF, 0x00] = .none ∧ classifyLink 131072 [0x00, 0x00, 0x05, 0xFB] = .chainFault
    ∧ classifyLink 131072 [0x02, 0x00, 0x00, 0xFD] = .chainFault := by decide +kernel

theorem test_ident : ∃ t, exec (.registerReadOther 0x1E) State.reset = .next t ∧ t.window.dataOut = some 0x5B :=
  ⟨_, rfl, rfl⟩

theorem test_begin_starts_a_frame : ∃ t, exec .linkBegin (State.reset.withLink
      { Link.reset with state := .granted, fillQ := some 2 }) = .next t
    ∧ t.link.state = .receiving ∧ t.link.receive = .acked .plain := ⟨_, rfl, by decide +kernel⟩

theorem test_array_on : ∃ t, exec .arrayOn State.reset = .next t ∧ t.seq.op = some (.startCloseAll, 3)
    ∧ gstat t &&& 0x07 = 0x01 := ⟨_, rfl, by decide +kernel⟩

/-- 03 R47: the last block is granted to a push that has been given up, and the inbound side's allocation waits. -/
def lastBlockUnwanted : State :=
  (State.reset.withPool { Pool.reset with
      state := .formatted, cache := [{ block := 5, promised := some .push }], waitingAllocs := [.link] }).withPush
    { Push.reset with
      state := .cancelling
      w := { Writer.reset with step := some { forHeader := true, stage := .granted 5 } } }
    |>.withLink { Link.reset with inb := { Inbound.reset with
      state := .filling, w := { Writer.reset with step := some { forHeader := true, stage := .allocation } } } }

theorem test_block_handed_back_serves_waiting : ∃ t, exec .lackRise lastBlockUnwanted = .next t
    ∧ t.pool.cache = [{ block := 5, promised := some .link }] ∧ t.pool.waitingAllocs = []
    ∧ t.link.inb.w.step = some { forHeader := true, stage := .join 5 } := ⟨_, rfl, by decide +kernel⟩

/-! ### The hypotheses of the statements -/

theorem test_StepRunsFrontCommand_inputs : (State.reset.withPending [.dataRead, .evidRead]).pending
    = .dataRead :: [.evidRead] := rfl

theorem test_EmptyQueuePassesOneClock_inputs : State.reset.pending = [] ∧ dueCommand State.reset = none
    ∧ dueCommand (State.reset.withStamp { Stamp.reset with left := 0 }) = some .stampTick := by decide +kernel

theorem test_DataWriteByState_inputs : ∀ st, (pushing st 0 0 none).push.state = st := fun _ => rfl

theorem test_PayloadWrites_inputs :
    (let s := pushing .filling 64 64 none
     s.push.state = .filling ∧ s.push.armed = none ∧ 64 ≤ s.push.w.buf.length)
    ∧ (let s := pushing .filling 63 16384 none
      s.push.armed = none ∧ s.push.remainder = none ∧ s.push.w.buf.length < 64 ∧ s.push.accepted = 16384)
    ∧ (let s := pushing .filling 63 16383 none
      s.push.armed = none ∧ s.push.remainder = none ∧ s.push.w.buf.length < 64 ∧ s.push.accepted < 16384)
    ∧ (let s := pushing .filling 64 64 (some 2)
      s.push.armed = some 2 ∧ 64 ≤ s.push.w.buf.length)
    ∧ (let s := pushing .filling 63 16383 (some 2)
      s.push.remainder = none ∧ s.push.w.buf.length < 64 ∧ 16384 < s.push.accepted + 2)
    ∧ (let s := pushing .filling 63 16319 (some 65)
      s.push.remainder = none ∧ s.push.w.buf.length < 64 ∧ s.push.accepted + 65 ≤ 16384) := by decide +kernel

theorem test_OpenByStateAndMode_inputs : (pushing .filling 0 0 none).push.state ≠ .idle
    ∧ State.reset.push.state = .idle ∧ State.reset.modeCtl.mode ≠ .run ∧ (inMode .run).push.state = .idle
    ∧ (inMode .run).modeCtl.mode = .run := by decide

theorem test_RepeatEndCancel_inputs : (pushing .filling 0 0 none).push.armed = none
    ∧ (pushing .filling 0 0 (some 2)).push.armed ≠ none ∧ (pushing .awaitTag 0 0 none).push.state ≠ .filling
    ∧ (pushing .committing 0 0 none).push.state = .committing := by decide

theorem test_LostAndRepeatedStayUntilOpen_inputs :
    let s := State.reset.withPush { Push.reset with lost := true, repeated := true }
    s.push.lost = true ∧ s.push.repeated = true ∧ Goes .pctlEnd s ∧ Goes (.registerWriteOther 0x01 0x5F) s
      ∧ Goes (.pctlUndefinedCode 0x78) s ∧ (0x5F : Byte).toNat < 0x60 ∧ 0x77 < (0x78 : Byte).toNat :=
  ⟨rfl, rfl, ⟨_, rfl⟩, ⟨_, rfl⟩, ⟨_, rfl⟩, by decide, by decide⟩

theorem test_EngineCommandsFrame_inputs (s : State) : Goes (.dataWrite 0) s ∧ Goes (.pctlOpen 23) s
    ∧ Goes (.pctlRepeat 63) s ∧ Goes .pctlEnd s ∧ Goes .pctlCancel s ∧ Goes (.pctlUndefinedCode 0x42) s
    ∧ Goes .dataRead s ∧ Goes (.octlSelect 23) s ∧ Goes .octlRelease s ∧ Goes .octlReturn s ∧ Goes .octlRewind s
    ∧ Goes (.octlUndefinedCode 0x38) s :=
  ⟨⟨_, rfl⟩, ⟨_, rfl⟩, ⟨_, rfl⟩, ⟨_, rfl⟩, ⟨_, rfl⟩, ⟨_, rfl⟩, ⟨_, rfl⟩, ⟨_, rfl⟩, ⟨_, rfl⟩, ⟨_, rfl⟩, ⟨_, rfl⟩, ⟨_, rfl⟩⟩

theorem test_DataReadByState_inputs :
    (let s := popping .ready 0 []
     s.pop.state = .ready ∧ s.pop.r.remaining = 0)
    ∧ (let s := popping .ready 1 []
      s.pop.r.remaining ≠ 0 ∧ s.pop.r.buf = [])
    ∧ (let s := popping .ready 1 [7]
      s.pop.r.remaining ≠ 0 ∧ s.pop.r.buf = 7 :: [])
    ∧ (popping .loading 0 []).pop.state = .loading ∧ (popping .releasing 0 []).pop.state = .releasing := by decide

theorem test_SelectAndRefusedPopCommands_inputs : (popping .ready 0 []).pop.state ≠ .idle
    ∧ State.reset.pop.state = .idle ∧ State.reset.modeCtl.mode ≠ .run ∧ (inMode .run).modeCtl.mode = .run
    ∧ (inMode .run).pop.state = .idle ∧ octlUndefined 0x38 = true ∧ (popping .loading 0 []).pop.state ≠ .ready := by
  decide

theorem test_PopCommandsTaken_inputs : (popping .ready 0 []).pop.state = .ready
    ∧ (popping .ready 0 []).pop.r.header = some { block := 0, offset := 4 }
    ∧ (popping .loading 0 []).pop.r.queue = some 0 := by decide

theorem test_ClaimAnswers_open_inputs :
    (let x := (queueIn .faulted id State.reset).queue 0
     x.state = .faulted)
    ∧ (let x := (queueIn .held id State.reset).queue 0
      x.state = .held ∧ x.producer ≠ .link)
    ∧ (let x := (queueIn .active (fun x => { x with openRec := some .push }) State.reset).queue 0
      x.state = .active ∧ x.producer = .window ∧ x.openRec ≠ none)
    ∧ (let x := (queueIn .active (fun x => { x with records := 65535 }) State.reset).queue 0
      x.openRec = none ∧ x.records = 65535)
    ∧ (let x := (queueIn .active (fun x => { x with records := 65534 }) State.reset).queue 0
      x.openRec = none ∧ x.records ≠ 65535) := by decide +kernel

theorem test_ClaimAnswers_pin_inputs :
    (queueIn .held id State.reset |>.queue 0).state ≠ .active
    ∧ (let x := (queueIn .active (fun x => { x with consumer := .link }) State.reset).queue 0
      x.state = .active ∧ x.consumer = .link)
    ∧ (let x := (queueIn .active id State.reset).queue 0
      x.consumer = .window ∧ x.records = 0)
    ∧ (let x := (queueIn .active (fun x => { x with records := 1, pin := some .pop }) State.reset).queue 0
      x.records ≠ 0 ∧ x.pin ≠ none)
    ∧ (let x := (queueIn .active (fun x => { x with records := 1, head := some { block := 0, offset := 4 } })
        State.reset).queue 0
      x.records ≠ 0 ∧ x.pin = none ∧ x.head = some { block := 0, offset := 4 }) := by decide +kernel

/-- Queue 0 with the Push Engine's open record, at a block count below or at its limit of 1, and a pool. -/
def extending (blocks : Nat) (policy : Policy) (pool : Pool) : State :=
  queueIn .active (fun x => { x with openRec := some .push, blocks := blocks, blockLimit := 1, policy := policy })
    ((State.reset.withPush { Push.reset with state := .filling, w := { Writer.reset with queue := some 0 } }).withPool pool)

/-- The pool in FORMATTED with a cache and a release list. -/
def supplied (cache : List CacheBlock) (release : List Segment) (chainCount : Nat) : Pool :=
  { Pool.reset with state := .formatted, cache := cache, release := release, chainCount := chainCount }

/-- A block in the cache. -/
def cached (b : Nat) (p : Option Producer) : CacheBlock := { block := b, promised := p }

theorem test_ClaimAnswers_extension_inputs :
    (let s := extending 0 .refuse (supplied [cached 5 (some .link), cached 6 none] [] 0)
     let x := s.queue 0
     x.openRec = some .push ∧ phase s .push = .filling ∧ x.blocks < x.blockLimit ∧ s.pool.state = .formatted
      ∧ s.pool.cache = [cached 5 (some .link)] ++ { block := 6, promised := none } :: []
      ∧ ∀ c ∈ [cached 5 (some .link)], c.promised ≠ none)
    ∧ (let s := extending 0 .refuse (supplied [cached 5 (some .link)] [] 1)
      (∀ c ∈ s.pool.cache, c.promised ≠ none) ∧ 0 < s.pool.chainCount)
    ∧ (let s := extending 0 .refuse (supplied [] [{ first := 1, last := 1, count := 1 }] 0)
      s.pool.release ≠ [] ∧ ∀ c ∈ s.pool.cache, c.promised ≠ none)
    ∧ (let s := extending 0 .refuse (supplied [] [] 0)
      s.pool.chainCount = 0 ∧ s.pool.release = [] ∧ ∀ c ∈ s.pool.cache, c.promised ≠ none)
    ∧ (extending 0 .refuse Pool.reset).pool.state ≠ .formatted
    ∧ (let s := extending 1 .refuse Pool.reset
      let x := s.queue 0
      x.blockLimit ≤ x.blocks ∧ (s.writer .push).queue = some 0 ∧ x.policy = .refuse)
    ∧ ((extending 1 .discardOldest Pool.reset).queue 0).policy = .discardOldest
    ∧ (State.reset.queue 0).openRec ≠ some .push ∧ phase State.reset .push ≠ .filling
    ∧ phase State.reset .push ≠ .committing := by decide +kernel

theorem test_ClaimAnswers_join_inputs : ((extending 0 .refuse Pool.reset).queue 0).blocks = 0
    ∧ ((extending 1 .refuse Pool.reset).queue 0).blocks ≠ 0
    ∧ ((extending 1 .refuse Pool.reset).queue 0).openRec = some .push := by decide +kernel

/-- A removal of 8 bytes that ends in block 3, after a walk of n blocks from block 2, and goes on in block b. -/
def aRemoval (n b : Nat) : Removal :=
  { length := 8, endPos := { block := 3, offset := 20 }, next := some { block := b, offset := 20 }
    run := { first := 2, prev := some 2, count := n } }

/-- Queue 0 with a chain of 3 blocks from block 2 and its head record pinned by the Pop Engine, a claim's work on it, and a
link word of block 4 owed by the Push Engine. -/
def claiming (records : Nat) (openRec : Option Producer) (w : Work) : State :=
  queueIn .active (fun x => { x with
      records := records, pin := some .pop, openRec := openRec, blocks := 3, head := some { block := 2, offset := 4 }
      tail := some { block := 2, offset := 40 }, tailBlock := some 4, joined := some (3, 2), work := w })
    (State.reset.withPush { Push.reset with state := .filling, w := { Writer.reset with queue := some 0, owed := some (4, 5) } })

/-- The link word that is owed, posted. -/
def owedAtSlot (s : State) : State := s.setSlot .pushw (.issued (linkWrite .linkWord 4 (some 5)))

/-- The pool with its release list full. -/
def crowded (cache : List CacheBlock) : Pool :=
  supplied cache (List.replicate 4 { first := 8, last := 9, count := 2 }) 0

theorem test_ClaimAnswers_unpin_inputs : ((claiming 1 none .idle).queue 0).pin = some .pop
    ∧ ((claiming 1 none .idle).queue 0).pin ≠ some .link := by decide +kernel

theorem test_ClaimAnswers_cancel_inputs :
    workSegment (claiming 0 (some .push) (.cancel .push)) 0 = some { first := 2, last := 4, count := 3 }
    ∧ workSegment (claiming 1 (some .push) (.cancel .push)) 0 = some { first := 3, last := 4, count := 2 }
    ∧ workSegment (queueIn .active (fun x => { x with openRec := some .push, work := .cancel .push }) State.reset) 0 = none
    ∧ owedPosted (claiming 1 (some .push) (.cancel .push)) 0 = false
    ∧ owedPosted (owedAtSlot (claiming 1 (some .push) (.cancel .push))) 0 = true
    ∧ ((claiming 1 none .idle).queue 0).openRec ≠ some .push := by decide +kernel

theorem test_ClaimAnswers_remove_inputs :
    workSegment (claiming 2 none (.remove .pop (aRemoval 2 3))) 0 = some { first := 2, last := 2, count := 1 }
    ∧ workSegment (claiming 2 none (.remove .pop (aRemoval 1 3))) 0 = none
    ∧ workSegment (claiming 2 none (.remove .pop (aRemoval 2 4))) 0 = some { first := 2, last := 3, count := 2 }
    ∧ workSegment (claiming 1 none (.remove .pop (aRemoval 2 4))) 0 = some { first := 2, last := 4, count := 3 }
    ∧ workSegment (claiming 1 (some .push) (.remove .pop (aRemoval 2 4))) 0 = some { first := 2, last := 4, count := 3 }
    ∧ owedPosted (owedAtSlot (claiming 1 (some .push) (.remove .pop (aRemoval 2 4)))) 0 = true := by decide +kernel

theorem test_ClaimAnswers_pool_inputs :
    let one : Segment := { first := 2, last := 2, count := 1 }
    let two : Segment := { first := 2, last := 3, count := 2 }
    let full (n : Nat) : State := State.reset.withPool (crowded (List.replicate n (cached 7 none)))
    poolTakes one (full 7) = true ∧ poolTakes one (full 8) = false ∧ poolTakes two (full 0) = false
      ∧ poolTakes one ((full 7).setSlot .pool (.issued (linkRead .fetch 1))) = false
      ∧ poolTakes two (State.reset.withPool (supplied [] [] 0)) = true ∧ poolTakes two State.reset = true
      ∧ (full 7).pool.waitingAllocs = []
      ∧ (State.reset.withPool { supplied [] [] 0 with waitingAllocs := [.push] }).pool.waitingAllocs = .push :: [] := by
  decide +kernel

theorem test_CommitClaimAnswers_inputs :
    ((queueIn .active (fun x => { x with openRec := some .push }) State.reset).queue 0).openRec = some .push
    ∧ (State.reset.queue 0).openRec ≠ some .push := by decide +kernel

theorem test_QcmdDecoding_inputs :
    (State.reset.withWindow { Window.reset with qres := .pending }).window.qres = .pending
    ∧ State.reset.window.qres ≠ .pending ∧ qcmdUndefined 0x09 = true ∧ 24 ≤ (staged 24 0 0 State.reset).window.qsel.toNat
    ∧ (staged 29 0 0 State.reset).window.qsel.toNat ≠ 30 ∧ (staged 32 0 0 State.reset).window.qsel.toNat ≠ 31 := by
  decide

theorem test_FetchReadsField_inputs : State.reset.window.qres ≠ .pending
    ∧ pageOf (staged 23 0 0 State.reset).window.qsel = some (.queue 23)
    ∧ pageOf (staged 30 9 0 State.reset).window.qsel = some .link
    ∧ pageOf (staged 31 15 0 State.reset).window.qsel = some .array
    ∧ 9 ≤ (staged 30 9 0 State.reset).window.qfld.toNat ∧ (staged 31 15 0 State.reset).window.qfld.toNat < 16 := by
  decide

theorem test_StoreToQueuePage_inputs :
    (staged 0 5 0 State.reset).window.qsel.toNat = (0 : QId).val ∧ State.reset.window.qres ≠ .pending
    ∧ 5 ≤ (staged 0 5 0 State.reset).window.qfld.toNat ∧ (staged 0 15 0 State.reset).window.qfld.toNat = 15
    ∧ ((queueIn .active id State.reset).queue 0).state ≠ .off ∧ (State.reset.queue 0).state = .off
    ∧ (State.reset.queue 0).blocks = 0
    ∧ [3, 4, 7, 8, 0, 1, 1048575, 1048576, 65535, 65536].map (fun v => stagedIn (staged 0 1 v State.reset))
      = [3, 4, 7, 8, 0, 1, 1048575, 1048576, 65535, 65536] := by decide +kernel

theorem test_StoreToLinkPage_inputs :
    State.reset.window.qres ≠ .pending ∧ (staged 30 5 0 State.reset).window.qsel = 30
    ∧ State.reset.link.state = .off ∧ State.reset.link.out.state = .idle ∧ State.reset.link.inb.state = .idle
    ∧ State.reset.link.out.r.unwanted = false ∧ (linking .idle).link.state ≠ .off
    ∧ [0xFF, 23, 24, 7, 8, 1, 15, 16, 0, 255, 256].map (fun v => stagedIn (staged 30 0 v State.reset))
      = [0xFF, 23, 24, 7, 8, 1, 15, 16, 0, 255, 256] := by decide +kernel

theorem test_StoreToArrayPage_inputs :
    State.reset.window.qres ≠ .pending ∧ (staged 31 6 0 State.reset).window.qsel = 31
    ∧ State.reset.modeCtl.mode = .config ∧ State.reset.seq.state = .off ∧ (inMode .run).modeCtl.mode ≠ .config
    ∧ (sequencing .ready none).modeCtl.mode = .config ∧ (sequencing .ready none).seq.state ≠ .off
    ∧ [0, 1, 65536, 65537, 4, 8, 4096, 8192, 16384, 4095, 9, 63, 64, 0x111, 0xFFF, 0x011].map
        (fun v => stagedIn (staged 31 0 v State.reset))
      = [0, 1, 65536, 65537, 4, 8, 4096, 8192, 16384, 4095, 9, 63, 64, 0x111, 0xFFF, 0x011] := by decide +kernel

theorem test_QueueStateCommands_inputs :
    State.reset.window.qres ≠ .pending ∧ State.reset.window.qsel.toNat = (0 : QId).val
    ∧ (inMode .stopping).modeCtl.mode ≠ .run ∧ (inMode .stopping).modeCtl.mode ≠ .config
    ∧ (State.reset.queue 0).state = .off ∧ ((queueIn .active id State.reset).queue 0).state = .active
    ∧ ((queueIn .held id State.reset).queue 0).state = .held
    ∧ ((queueIn .faulted id State.reset).queue 0).state = .faulted := by decide +kernel

theorem test_DisableAnswers_inputs :
    (let x := State.reset.queue 0
     x.state = .off)
    ∧ (let x := (queueIn .active (fun x => { x with pin := some .pop }) State.reset).queue 0
      x.state = .active ∧ x.pin ≠ none)
    ∧ (let x := (queueIn .held (fun x => { x with records := 1, blocks := 1 }) State.reset).queue 0
      ¬(x.pin ≠ none ∨ x.openRec ≠ none ∨ x.held = true) ∧ 0 < x.records)
    ∧ (let x := (queueIn .active (fun x => { x with blocks := 1 }) State.reset).queue 0
      ¬(x.pin ≠ none ∨ x.openRec ≠ none ∨ x.held = true) ∧ 0 < x.blocks)
    ∧ (let x := (queueIn .active id State.reset).queue 0
      ¬(x.pin ≠ none ∨ x.openRec ≠ none ∨ x.held = true) ∧ x.records = 0 ∧ x.blocks = 0) := by decide +kernel

/-- A queue with one record in one block. -/
def oneBlock (x : Queue) : Queue :=
  { x with records := 1, payload := 1, blocks := 1, head := some { block := 5, offset := 4 }
           tail := some { block := 5, offset := 9 }, tailBlock := some 5 }

theorem test_FlushAnswers_inputs :
    (inMode .formatting).modeCtl.mode = .formatting ∧ State.reset.modeCtl.mode ≠ .formatting
    ∧ State.reset.modeCtl.mode ≠ .halted ∧ ((queueIn .faulted id State.reset).queue 0).state = .faulted
    ∧ (let x := (queueIn .active (fun x => { x with openRec := some .link }) State.reset).queue 0
      x.openRec ≠ none)
    ∧ (let x := (queueIn .off id State.reset).queue 0
      ¬(x.pin ≠ none ∨ x.openRec ≠ none ∨ x.held = true) ∧ x.blocks = 0)
    ∧ (let x := (queueIn .active oneBlock State.reset).queue 0
      x.blocks ≠ 0 ∧ x.head = some { block := 5, offset := 4 } ∧ x.tailBlock = some 5)
    ∧ poolTakes { first := 5, last := 5, count := 1 } (State.reset.withPool { Pool.reset with state := .formatted }) = true
    ∧ poolTakes { first := 5, last := 6, count := 2 } (State.reset.withPool { Pool.reset with
        state := .formatted, release := List.replicate 4 { first := 9, last := 9, count := 1 } }) = false := by
  decide +kernel

theorem test_ModeRequestsAnswers_inputs :
    (inMode .run).modeCtl.mode ≠ .config ∧ State.reset.seq.state = .off ∧ State.reset.modeCtl.mode = .config
    ∧ (let s := (sequencing .recovering none).withPool { Pool.reset with state := .formatted }
      s.modeCtl.mode = .config ∧ s.seq.state ≠ .off ∧ s.seq.state ≠ .starting ∧ s.seq.state ≠ .fault
        ∧ s.pool.state = .formatted)
    ∧ (inMode .stopping).modeCtl.stop ≠ some .abort
    ∧ (State.reset.withModeCtl { mode := .stopping, stop := some .abort, last := .ok }).modeCtl.stop = some .abort
    ∧ modeUndefined 0x05 = true := by decide

theorem test_ModeConfigAnswers_inputs : State.reset.modeCtl.mode ≠ .halted
    ∧ (inMode .halted).modeCtl.mode = .halted := by decide

theorem test_StopCompletes_inputs :
    let s := inMode .stopping
    s.modeCtl.mode = .stopping ∧ s.push.state = .idle ∧ s.pop.state = .idle ∧ s.pop.r.unwanted = false
      ∧ s.link.state = .off ∧ s.link.out.state = .idle ∧ s.link.inb.state = .idle ∧ s.link.out.r.unwanted = false
      ∧ s.pool.release = [] ∧ s.pool.waiting = [] ∧ State.reset.modeCtl.mode ≠ .stopping := by decide

theorem test_MarksAndWatermark_inputs : Goes .evidRead State.reset ∧ Goes .evqRead State.reset
    ∧ Goes (.evack 0x10) State.reset :=
  ⟨⟨_, rfl⟩, ⟨_, rfl⟩, ⟨_, rfl⟩⟩

theorem test_EvidReportsHighest_none : ∀ c : Cause, c.isPending State.reset = false := by
  rintro (g | ⟨k, q⟩ | q)
  · cases g <;> rfl
  · cases k <;> (revert q; decide +kernel)
  · revert q; decide +kernel

theorem test_EvidReportsHighest_one :
    let s := raise .modeDone State.reset
    (Cause.global .modeDone).isPending s = true
      ∧ ∀ d : Cause, d.isPending s = true → ranksFirst (.global .modeDone) d := by
  refine ⟨rfl, ?_⟩
  rintro (g | ⟨k, q⟩ | q)
  · cases g <;> first | (intro h; exact absurd h (by decide)) | exact fun _ => Or.inr ⟨rfl, Nat.le_refl _⟩
  · cases k <;> (revert q; unfold ranksFirst; decide +kernel)
  · revert q; unfold ranksFirst; decide +kernel

theorem test_EvqGivesReportedQueue_inputs (s : State) : Goes .evidRead s := ⟨_, rfl⟩

theorem test_EvackClearsByCode_inputs : GlobalCause.linkTimeout.code = (0x05 : Byte).toNat
    ∧ GlobalCause.popPastEnd.code = (0x0E : Byte).toNat
    ∧ (State.reset.withEvents { Events.reset with ackQueue := 23 }).events.ackQueue.toNat = (23 : QId).val
    ∧ 24 ≤ State.reset.events.ackQueue.toNat ∧ (0x04 : Byte).toNat ≤ 0x04 ∧ 0x11 ≤ (0x11 : Byte).toNat := by decide

theorem test_LinkCommandsAnswers_inputs :
    State.reset.modeCtl.mode ≠ .run ∧ (inMode .run).modeCtl.mode = .run ∧ (inMode .run).link.state = .off
    ∧ (linking .fault).link.state ≠ .off
    ∧ (let l := ((inMode .run).withLink { Link.reset with inb := { Inbound.reset with state := .cancelling } }).link
      l.state = .off ∧ l.inb.state ≠ .idle)
    ∧ (let s := (inMode .run).withLink { Link.reset with drainQ := some 0 }
      s.link.drainQ = some 0 ∧ (s.queue 0).consumer ≠ .link)
    ∧ (inMode .run).link.drainQ = none ∧ (inMode .run).link.fillQ = none ∧ lcmdUndefined 0x03 = true := by decide +kernel

/-- A link that may send from queue 0. -/
def readyToSend : State :=
  (queueIn .active (fun x => { oneBlock x with consumer := .link }) (inMode .run)).withLink
    { Link.reset with state := .idle, drainQ := some 0 }

theorem test_ArbiterActsByCase_inputs : State.reset.modeCtl.mode ≠ .run
    ∧ (let s := readyToSend
      s.modeCtl.mode = .run ∧ s.link.drainQ = some 0 ∧ (s.queue 0).state = .active ∧ (s.queue 0).consumer = .link
        ∧ (s.queue 0).records ≠ 0 ∧ (s.queue 0).pin = none ∧ (s.queue 0).held = false
        ∧ (s.queue 0).head = some { block := 5, offset := 4 } ∧ s.link.lreq = false)
    ∧ (let s := readyToSend.withLink { readyToSend.link with lreq := true, turn := .reverse }
      s.modeCtl.mode = .run ∧ s.link.lreq = true ∧ s.link.turn = .reverse)
    ∧ (inMode .run).link.drainQ = none ∧ (inMode .run).link.lreq = false := by decide +kernel

/-- A link timer in use. -/
def timing (u : TimerUse) (st : LinkState) : State :=
  State.reset.withLink { Link.reset with state := st, timer := some { use := u, left := 1 } }

theorem test_LreqEdgesAndTimers_inputs : (timing .lackRise .sending).link.timer = some { use := .lackRise, left := 1 }
    ∧ (timing .idleGrant .granted).link.timer = some { use := .idleGrant, left := 1 }
    ∧ (timing .idleGrant .granted).link.state = .granted ∧ State.reset.link.timer = none := by decide

/-- A byte offered to the peer. -/
def offering (i : FrameItem) (risen : Bool) : State :=
  State.reset.withLink { Link.reset with state := .sending, sending := some (i, risen) }

theorem test_SenderHandshake_inputs : (offering .tag false).link.sending = some (.tag, false)
    ∧ (offering .endByte false).link.sending = some (.endByte, false) ∧ (offering .tag true).link.state = .sending
    ∧ State.reset.link.state ≠ .sending := by decide

/-- A frame being received: the link state, whether a record is too late, the handshake. -/
def receiving (st : LinkState) (late : Bool) (r : Receive) : State :=
  State.reset.withLink { Link.reset with state := st, tooLate := late, receive := r }

theorem test_BeginAndByteEnd_inputs : (receiving .granted false .complete).link.fillQ = none
    ∧ ((receiving .granted false .complete).withLink { Link.reset with fillQ := some 23 }).link.fillQ = some 23
    ∧ (receiving .reclaiming false .complete).link.tooLate = false
    ∧ (receiving .reclaiming true .complete).link.tooLate = true
    ∧ (receiving .receiving false (.acked .plain)).link.receive = .acked .plain
    ∧ (receiving .granted false (.acked .plain)).link.state ≠ .receiving
    ∧ (receiving .receiving false (.acked .abortByte)).link.receive = .acked .abortByte
    ∧ (receiving .reclaiming true (.acked .endByte)).link.state ≠ .receiving := by decide

theorem test_BeginAndByteEnd_none : ∀ k, (receiving .idle false .complete).link.receive ≠ .acked k := by
  intro k h
  exact nomatch h

/-- A frame in FILLING. -/
def filling (bytes : Nat) (high : Option Byte) (declared : Option Nat) (buffered : Nat) : State :=
  State.reset.withLink { Link.reset with
    state := .receiving
    inb := { Inbound.reset with state := .filling, frameBytes := bytes, lengthHigh := high, declared := declared
                                w := { Writer.reset with queue := some 0, buf := List.replicate buffered 0 } } }

theorem test_InboundDataByte_inputs :
    (filling 0 none none 0).link.inb.frameBytes = 0 ∧ (filling 1 none none 0).link.inb.frameBytes = 1
    ∧ (filling 2 (some 0x40) none 0).link.inb.lengthHigh = some 0x40 ∧ (0x40 : Byte).toNat * 256 + (0 : Byte).toNat ≤ 16384
    ∧ 16384 < (0x40 : Byte).toNat * 256 + (1 : Byte).toNat
    ∧ (let i := (filling 3 none (some 1) 31).link.inb
      3 ≤ i.frameBytes ∧ i.declared = some 1 ∧ i.frameBytes - 3 + 1 ≤ 1 ∧ i.w.buf.length < 32)
    ∧ (let i := (filling 40 none (some 38) 32).link.inb
      i.declared = some 38 ∧ i.frameBytes - 3 + 1 ≤ 38 ∧ 32 ≤ i.w.buf.length)
    ∧ (let i := (filling 4 none (some 1) 0).link.inb
      3 ≤ i.frameBytes ∧ i.declared = some 1 ∧ 1 < i.frameBytes - 3 + 1)
    ∧ (receiving .receiving false .complete).link.inb.state ≠ .filling
    ∧ (receiving .reclaiming true .complete).link.tooLate = true
    ∧ (receiving .granted false .complete).link.receive = .complete
    ∧ (receiving .fault false .complete).link.state = .fault := by decide +kernel

theorem test_EndAbortAndStrayBytes_inputs :
    (let i := (filling 3 none (some 0) 0).link.inb
     i.declared = some 0 ∧ 3 ≤ i.frameBytes ∧ i.frameBytes - 3 = 0)
    ∧ (∀ n, (filling 2 (some 0) none 0).link.inb.declared = some n → (filling 2 (some 0) none 0).link.inb.frameBytes < 3)
    ∧ (receiving .receiving false .complete).link.inb.state ≠ .filling
    ∧ (receiving .receiving false .complete).link.inb.state ≠ .committing
    ∧ (0xB0 : Byte) ≠ 0xB1 ∧ (0xB0 : Byte) ≠ 0xBE ∧ (0xB0 : Byte) ≠ 0xBA :=
  ⟨by decide, fun _ h => (nomatch h), by decide, by decide, by decide, by decide, by decide⟩

theorem test_LinkEventsFrame_inputs (s : State) : Goes .lackRise s ∧ Goes .lackFall s ∧ Goes .peerAccept s
    ∧ Goes .peerReject s ∧ Goes .linkBegin s ∧ Goes (.inboundDataByte 0) s ∧ Goes .inboundEnd s ∧ Goes .inboundAbort s
    ∧ Goes (.strayByte true 0) s ∧ Goes .lstbFall s ∧ Goes .lreqRise s ∧ Goes .lreqFall s ∧ Goes .linkTimeout s
    ∧ Goes .idleGrantExpiry s :=
  ⟨⟨_, rfl⟩, ⟨_, rfl⟩, ⟨_, rfl⟩, ⟨_, rfl⟩, ⟨_, rfl⟩, ⟨_, rfl⟩, ⟨_, rfl⟩, ⟨_, rfl⟩, ⟨_, rfl⟩, ⟨_, rfl⟩, ⟨_, rfl⟩, ⟨_, rfl⟩,
    ⟨_, rfl⟩, ⟨_, rfl⟩⟩

theorem test_ArrayCommands_inputs : (inMode .run).modeCtl.mode ≠ .config ∧ State.reset.modeCtl.mode = .config
    ∧ State.reset.seq.state = .off ∧ (sequencing .ready none).seq.state ≠ .off
    ∧ (sequencing .ready none).seq.state ≠ .starting ∧ (sequencing .ready none).seq.state ≠ .fault := by decide

/-- The unconfirmed list of a sequencer in READY. -/
def unconfirmed (l : List Entry) : State := State.reset.withSeq { Seq.reset with state := .ready, unconfirmed := l }

theorem test_AlertByState_inputs : State.reset.seq.state = .off
    ∧ (sequencing .starting (some (.startCloseAll, 1))).seq.op = some (.startCloseAll, 1)
    ∧ (sequencing .starting (some (.startRefresh, 1))).seq.op = some (.startRefresh, 1)
    ∧ (sequencing .ready none).seq.unconfirmed = []
    ∧ (let x := (unconfirmed [anEntry .refresh 2]).seq
      x.state = .ready ∧ x.unconfirmed ≠ [] ∧ ∀ e ∈ x.unconfirmed, e.replays ≠ 3)
    ∧ (∃ e ∈ (unconfirmed [anEntry .refresh 3]).seq.unconfirmed, e.replays = 3)
    ∧ (sequencing .recovering none).seq.state = .recovering := by decide +kernel

theorem test_ArrayFaultEffect_inputs :
    (State.reset.withPool { Pool.reset with state := .formatted }).pool.state = .formatted
    ∧ State.reset.pool.state = .unformatted ∧ ((queueIn .held id State.reset).queue 0).state = .held
    ∧ (State.reset.queue 0).state = .off ∧ (pushing .filling 0 0 none).push.state ≠ .idle
    ∧ (popping .ready 0 []).pop.state ≠ .idle ∧ State.reset.push.state = .idle ∧ State.reset.pop.state = .idle
    ∧ (State.reset.withWindow { Window.reset with qres := .pending }).window.qres = .pending
    ∧ State.reset.window.qres ≠ .pending := by decide +kernel

/-- The refresh timer running, with a debt. -/
def owing (debt : Nat) : State := State.reset.withSeq { Seq.reset with state := .ready, timer := some 0, debt := debt }

theorem test_TimersStampAndConfirmation_inputs : State.reset.seq.timer = none ∧ (owing 7).seq.timer ≠ none
    ∧ (owing 7).seq.debt < 8 ∧ (owing 8).seq.debt = 8 ∧ State.reset.seq.unconfirmed = []
    ∧ (unconfirmed [anEntry .refresh 0]).seq.unconfirmed = anEntry .refresh 0 :: []
    ∧ (anEntry .refresh 0).op = .refresh ∧ (anEntry (.request .popr (aRead 0)) 0).op = .request .popr (aRead 0)
    ∧ cmdUndefined 0x05 = true := by decide +kernel

/-- An ALERT taken that waits. -/
def alerted (s : State) : State := s.withSeq { s.seq with alertPending := true }

/-- The bytes of a link word that names block 5, that says none, and that is a chain fault. -/
def names5 : List Byte := [0x00, 0x00, 0x05, 0xFA]
def namesNone : List Byte := [0xFF, 0xFF, 0xFF, 0x00]
def namesBadly : List Byte := [0x00, 0x00, 0x05, 0xFB]

theorem test_TimersStampAndConfirmation_alert_inputs :
    (alerted (unconfirmed [anEntry .refresh 0])).seq.alertPending = true
    ∧ (unconfirmed [anEntry .refresh 0]).seq.alertPending = false := by decide +kernel

theorem test_TimersStampAndConfirmation_bytes_inputs :
    classifyLink (totalBlocks State.reset.seq.config) names5 = .names 5
    ∧ classifyLink (totalBlocks State.reset.seq.config) namesNone = .none
    ∧ classifyLink (totalBlocks State.reset.seq.config) namesBadly = .chainFault
    ∧ (headerOf Queue.reset [0x40, 0x00, 0, 0]).length = 16384 ∧ 16384 < (headerOf Queue.reset [0x40, 0x01, 0, 0]).length := by
  decide +kernel

theorem test_TimersStampAndConfirmation_reader_inputs :
    (popping .loading 0 []).pop.r.unwanted = false ∧ (popping .loading 0 []).pop.r.queue = some 0
    ∧ (State.reset.withPop { Pop.reset with r := { Reader.reset with unwanted := true } }).pop.r.unwanted = true
    ∧ (let s := State.reset.withLink { Link.reset with
          retryCount := 3, out := { Outbound.reset with r := { Reader.reset with queue := some 0 } } }
      s.link.out.r.queue = some 0 ∧ s.link.out.r.unwanted = false ∧ s.link.retryCount ≤ s.link.retryLimit)
    ∧ (let s := State.reset.withLink { Link.reset with retryCount := 4 }
      s.link.retryLimit < s.link.retryCount) := by decide +kernel

theorem test_TimersStampAndConfirmation_writer_inputs :
    (let s := State.reset.withPush { Push.reset with state := .committing, w := { Writer.reset with
        queue := some 0, header := some { block := 0, offset := 4 }, write := some { block := 0, offset := 8 } } }
     phase s .push = .committing ∧ (s.writer .push).queue = some 0
      ∧ (s.writer .push).header = some { block := 0, offset := 4 }
      ∧ (s.writer .push).write = some { block := 0, offset := 8 })
    ∧ phase State.reset .push ≠ .committing
    ∧ (let d : Discard := { producer := .push, stage := .header, length := 0, fetch := { block := 2, offset := 4 }
                            unfetched := 0, run := { first := 0, prev := none, count := 1 } }
      let s := claiming 1 (some .push) (.discard d)
      (s.writer .push).queue = some 0 ∧ (s.queue 0).work = .discard d ∧ d.producer = .push) := by decide +kernel

theorem test_TimersStampAndConfirmation_pool_inputs :
    (let x := { supplied [] [{ first := 1, last := 2, count := 2 }] 2 with chainHead := some 9 }
     x.state = .formatted ∧ x.chainHead = some 9 ∧ 1 < x.chainCount ∧ x.waitingAllocs = []
      ∧ x.release = { first := 1, last := 2, count := 2 } :: [])
    ∧ (supplied [] [] 1).chainCount = 1 ∧ ({ supplied [] [] 1 with waitingAllocs := [.push] }).waitingAllocs = .push :: []
    ∧ (let s := State.reset.withPool { Pool.reset with state := .formatting, progress := 131071 }
      s.pool.state = .formatting ∧ s.pool.progress + 1 = totalBlocks s.seq.config)
    ∧ (let s := State.reset.withPool { Pool.reset with state := .formatting, progress := 131070 }
      s.pool.progress + 1 ≠ totalBlocks s.seq.config)
    ∧ State.reset.pool.state ≠ .formatted ∧ State.reset.pool.state ≠ .formatting := by decide +kernel

theorem test_TimersStampAndConfirmation_fault_inputs : (State.reset.queue 0).state = .off
    ∧ ((claiming 1 (some .push) .idle).queue 0).state = .active
    ∧ ((claiming 1 (some .push) .idle).queue 0).openRec = some .push
    ∧ (queueIn .held id (popping .ready 0 [])).pop.r.queue = some 0
    ∧ ((queueIn .held id (popping .ready 0 [])).queue 0).state = .held
    ∧ (State.reset.withLink { Link.reset with
        out := { Outbound.reset with r := { Reader.reset with queue := some 0 } } }).link.out.r.queue = some 0 := by
  decide +kernel

/-- An access at a slot. -/
def accessing (c : Client) (r : Request) : State :=
  State.reset.withSeq { Seq.reset with
    state := .accessing, op := some (.access c, 1), slots := Slots.empty.set c (.issued r) }

theorem test_AccessCompletes_inputs :
    (accessing .popr (aRead 131071)).slot .popr = .issued (aRead 131071)
    ∧ (aRead 131071).block < totalBlocks (accessing .popr (aRead 131071)).seq.config
    ∧ totalBlocks State.reset.seq.config ≤ (aRead 131072).block ∧ (aRead 0).kind = .read ∧ (aWrite 0).kind = .write
    ∧ accessInProgress (accessing .pushw (aWrite 0)).seq = some (.pushw, aWrite 0)
    ∧ accessInProgress State.reset.seq = none ∧ reissueInProgress State.reset.seq = none := by decide +kernel

theorem test_AccessesChangeWrittenBytesAlone_inputs :
    Goes (.accessCompletion .asAsked) (accessing .pushw (aWrite 0))
    ∧ (let e := anEntry (.request .pushw (aWrite 0)) 1
      Goes (.reissueCompletion (.otherwise [9])) (sequencing .recovering (some (.reissue e, 1)))
        ∧ reissueInProgress (sequencing .recovering (some (.reissue e, 1))).seq = some e
        ∧ e.op = .request .pushw (aWrite 0)) :=
  ⟨⟨_, rfl⟩, ⟨_, rfl⟩, by decide +kernel, rfl⟩

theorem test_RefreshAndStartComplete_inputs : (sequencing .refreshing (some (.refresh, 1))).seq.op = some (.refresh, 1)
    ∧ (sequencing .starting (some (.startCloseAll, 1))).seq.op = some (.startCloseAll, 1)
    ∧ (sequencing .starting (some (.startRefresh, 1))).seq.op = some (.startRefresh, 1)
    ∧ ∀ o j, State.reset.seq.op ≠ some (o, j) :=
  ⟨rfl, rfl, rfl, fun _ _ h => nomatch h⟩

theorem test_RecoveryCompletes_inputs :
    (sequencing .recovering (some (.recoveryCloseAll, 1))).seq.op = some (.recoveryCloseAll, 1)
    ∧ (sequencing .recovering (some (.reissue (anEntry .refresh 1), 1))).seq.op = some (.reissue (anEntry .refresh 1), 1)
    ∧ (aWrite 131071).block < totalBlocks State.reset.seq.config
    ∧ totalBlocks State.reset.seq.config ≤ (aWrite 131072).block := by decide +kernel

theorem test_RecoveryCompletes_alert_inputs :
    (sequencing .recovering (some (.recoveryCloseAll, 1))).seq.alertPending = false
    ∧ (alerted (unconfirmed [anEntry .refresh 2])).seq.alertPending = true
    ∧ (∀ f ∈ (alerted (unconfirmed [anEntry .refresh 2])).seq.unconfirmed, f.replays ≠ 3)
    ∧ (∃ f ∈ (alerted (unconfirmed [anEntry .refresh 3])).seq.unconfirmed, f.replays = 3)
    ∧ (∀ j, (sequencing .recovering none).seq.op ≠ some (.recoveryCloseAll, j))
    ∧ (∀ f j, (sequencing .recovering none).seq.op ≠ some (.reissue f, j)) :=
  ⟨rfl, rfl, by decide +kernel, by decide +kernel, fun _ => nofun, fun _ _ => nofun⟩

/-- Two clients that wait, POOL before POPR, with the passed-over count of the second. -/
def twoWaiting (debt passed : Nat) : Seq :=
  { Seq.reset with
    state := .ready, debt := debt, waitList := [.pool, .popr]
    slots := (Slots.empty.set .pool (.waiting (aRead 0))).set .popr (.waiting { aRead 8 with passed := passed }) }

theorem test_ChoiceFollowsFiveCases_inputs :
    (twoWaiting 6 0).config.urgency ≤ (twoWaiting 6 0).debt ∧ choice (twoWaiting 6 0) = some .refresh
    ∧ (twoWaiting 5 4).debt < (twoWaiting 5 4).config.urgency
    ∧ waitingOf (twoWaiting 5 4) .popr = some { aRead 8 with passed := 4 }
    ∧ choice (twoWaiting 5 4) = some (.request .popr)
    ∧ isHit { twoWaiting 5 3 with bankTable := [none, some 0, none, none] } { aRead 8 with passed := 3 } = true
    ∧ choice { twoWaiting 5 3 with bankTable := [none, some 0, none, none] } = some (.request .popr)
    ∧ isHit (twoWaiting 5 3) (aRead 0) = false ∧ choice (twoWaiting 5 3) = some (.request .pool)
    ∧ choice { Seq.reset with debt := 1 } = some .refresh ∧ choice Seq.reset = none := by decide +kernel

theorem test_PassedOverCounts_inputs : waitingOf (twoWaiting 0 3) .pool = some (aRead 0)
    ∧ (beginAccess .pool (aRead 0) (twoWaiting 0 3)).slots.get .popr = .waiting { aRead 8 with passed := 4 }
    ∧ (beginAccess .pool (aRead 0) (twoWaiting 0 4)).slots.get .popr = .waiting { aRead 8 with passed := 4 } := by
  decide +kernel

theorem test_ViewMarksAndStatusBytes_inputs : isAccess .dataRead = true ∧ readsPstat .dataRead = false
    ∧ readsLstat .pstatRead = false ∧ Goes .dataRead State.reset ∧ Goes .pstatRead State.reset :=
  ⟨rfl, rfl, rfl, ⟨_, rfl⟩, ⟨_, rfl⟩⟩

theorem test_OtherRegistersAndRows_inputs : pctlUndefined 0x5F = true ∧ (0x77 : Byte).toNat = 0x60 + (23 : QId).val
    ∧ (0x37 : Byte).toNat = 0x20 + (23 : QId).val := by decide

theorem test_StoredFormReadsBack_inputs : totalBlocks { ArrayConfig.reset with banks := 8, rows := 16384 } = 0x100000
    ∧ (0xFF : Byte) = ~~~(0x00 ^^^ 0x01 ^^^ 0x01) ∧ (0xFE : Byte) ≠ ~~~(0x00 ^^^ 0x01 ^^^ 0x01)
    ∧ Header.reset.length ≤ 16384 := by decide +kernel

theorem test_BlocksLieApart_inputs : 0 < ArrayConfig.reset.banks ∧ 131071 < totalBlocks ArrayConfig.reset
    ∧ bankOf ArrayConfig.reset 131071 = 3 ∧ rowOf ArrayConfig.reset 131071 = 4095 ∧ rowByteOf 131071 255 = 2047 := by
  decide +kernel

/-- A pool with a chain of two blocks and one block in the cache. -/
def smallPool : State :=
  State.reset.withPool { Pool.reset with
    state := .formatted, chainHead := some 0, chainCount := 2, cache := [{ block := 7, promised := some .push }]
    release := [{ first := 9, last := 9, count := 1 }] }

theorem test_PoolMovementsKeepTheCount_inputs : smallPool.pool.state = .formatted ∧ smallPool.pool.chainHead = some 0
    ∧ fetchSound 2 (classifyLink (totalBlocks State.reset.seq.config) (linkWord (some 1))) = some (some 1)
    ∧ fetchSound 1 (classifyLink (totalBlocks State.reset.seq.config) (linkWord none)) = some none
    ∧ smallPool.pool.release ≠ [] ∧ (smallPool.pool.cache.filter (fun x => x.block == 7)).length = 1 := by
  decide +kernel

theorem test_QueueAndArrayChangeOnlyAsNamed_inputs (s : State) : Goes .reset s ∧ Goes .arrayOn s :=
  ⟨⟨_, rfl⟩, ⟨_, rfl⟩⟩

theorem test_MemoryStaysCanonical_inputs :
    let s := (accessing .pushw (aWrite 0)).withPending [.accessCompletion .asAsked]
    Memory.wf s.array.cells = true ∧ ∃ t, step s = .next t ∧ t.array.cells = [(4, 1), (5, 2), (6, 3), (7, 4)] :=
  ⟨rfl, _, rfl, by decide +kernel⟩

/-- The sequencer of the reset state is legal. -/
theorem test_SequencerStaysLegal_inputs : SeqLegal State.reset.seq ∧ ∃ t, step State.reset = .next t :=
  ⟨{ fits := rfl, debt := by decide, count := by decide, replays := by intro e h; exact nomatch h
     replayOnly := fun _ => rfl, offEmpty := fun _ => rfl, pendingOnly := fun h => nomatch h }, _, rfl⟩

theorem test_CountsModeAndEnablesStayLegal_inputs : InRange State.reset ∧ stopLegal State.reset.modeCtl
    ∧ evenLegal State.reset.events ∧ ∃ t, step State.reset = .next t := by
  refine ⟨⟨?_, ?_⟩, fun _ => rfl, by unfold evenLegal; decide, _, rfl⟩
  · unfold QueueInRange
    decide +kernel
  · unfold PushInRange
    decide +kernel

end Sys2Proof.Tests
end

section
/-! The host's queue page: STORE to its fields (02 R16, 11 R170) and DISABLE (02 R31). -/

namespace Sys2Proof.Machine

/-! ### A window access leaves the operands -/

@[simp] theorem windowAccess_qfld (s : State) : (windowAccess s).window.qfld = s.window.qfld := rfl

@[simp] theorem windowAccess_stagedValue (s : State) :
    stagedValue (windowAccess s).window = stagedValue s.window := rfl

/-- 11 section 11.3: QV0 is the highest of the three bytes. -/
theorem stagedValue_eq (w : Window) :
    stagedValue w = w.qv0.toNat * 65536 + w.qv1.toNat * 256 + w.qv2.toNat := by
  simp only [stagedValue, natOfBytes, List.foldl]
  omega

/-! ### The page that QSEL names (11 R168) -/

theorem pageOf_queue {b : Byte} {q : QId} (hq : b.toNat = q.val) : pageOf b = some (.queue q) := by
  simp only [pageOf, hq, q.isLt, dite_true]

theorem pageCommand_queue {s : State} {q : QId} (hp : s.window.qres ≠ .pending)
    (hq : s.window.qsel.toNat = q.val) (f : Page → State → State) : pageCommand f s = f (.queue q) s := by
  rw [pageCommand, if_neg hp, pageOf_queue hq]

theorem queueCommand_queue {s : State} {q : QId} (hp : s.window.qres ≠ .pending)
    (hq : s.window.qsel.toNat = q.val) (f : QId → State → State) : queueCommand f s = f q s := by
  rw [queueCommand, if_neg hp, pageOf_queue hq]

/-! ### What a queue page answers a STORE (02 R16) -/

/-- 02 R16: the configuration fields may be stored while the queue is OFF and holds no blocks. -/
def Queue.configurable (x : Queue) : Prop := x.state = .off ∧ x.blocks = 0

theorem Queue.not_configurable_iff {x : Queue} : ¬x.configurable ↔ x.state ≠ .off ∨ x.blocks ≠ 0 := not_and_or

theorem storeConfig_badState {x : Queue} (hx : ¬x.configurable) (q : QId) (inRange : Bool) (y : Queue) (s : State) :
    storeConfig x q inRange y s = (.badState, s) := if_pos (Queue.not_configurable_iff.mp hx)

theorem storeConfig_configurable {x : Queue} (hx : x.configurable) (q : QId) (inRange : Bool) (y : Queue)
    (s : State) : storeConfig x q inRange y s = if inRange then (.ok, s.setQueue q y) else (.badValue, s) :=
  if_neg fun hbad => Queue.not_configurable_iff.mpr hbad hx

theorem storeConfig_stored {x : Queue} (hx : x.configurable) (q : QId) {inRange : Bool} (hr : inRange = true)
    (y : Queue) (s : State) : storeConfig x q inRange y s = (.ok, s.setQueue q y) :=
  (storeConfig_configurable hx ..).trans (if_pos hr)

theorem storeConfig_badValue {x : Queue} (hx : x.configurable) (q : QId) {inRange : Bool} (hr : inRange = false)
    (y : Queue) (s : State) : storeConfig x q inRange y s = (.badValue, s) :=
  (storeConfig_configurable hx ..).trans (if_neg (Bool.eq_false_iff.mp hr))

section
variable {q : QId} {s : State} {f v : Nat}

/-- 11 R170: the fields that a queue page has and no STORE may write. -/
theorem storeQueue_readOnly (hf : f = 0 ∨ (5 ≤ f ∧ f ≤ 12) ∨ f = 15) :
    storeQueue q f v s = some (.badField, s) := by
  obtain rfl | ⟨hlo, hhi⟩ | rfl := hf
  · rfl
  · interval_cases f <;> rfl
  · rfl

/-- 11 R170: a queue page has 16 fields. -/
theorem storeQueue_noField (hf : 16 ≤ f) : storeQueue q f v s = none := by
  unfold storeQueue
  split
  case h_17 => rfl
  all_goals omega

/-- 02 R16: BINDING, OPTIONS, BLOCK_LIMIT and NEXT_SEQ of a queue that is not OFF or holds blocks. -/
theorem storeQueue_badState (hf : f = 1 ∨ f = 2 ∨ f = 3 ∨ f = 13) (hx : ¬(s.queue q).configurable) :
    storeQueue q f v s = some (.badState, s) := by
  obtain rfl | rfl | rfl | rfl := hf <;> exact congrArg some (storeConfig_badState hx ..)

theorem storeQueue_binding_badValue (hx : (s.queue q).configurable) (hv : 4 ≤ v) :
    storeQueue q 1 v s = some (.badValue, s) :=
  congrArg some (storeConfig_badValue hx q (decide_eq_false (by omega)) _ s)

/-- 11 Table 11-4: bit 0 of BINDING is the producer, bit 1 the consumer. -/
theorem storeQueue_binding (hx : (s.queue q).configurable) (hv : v < 4) :
    storeQueue q 1 v s = some (.ok, s.setQueue q { s.queue q with
      producer := if v % 2 = 1 then .link else .window, consumer := if 2 ≤ v then .link else .window }) := by
  have hbit : v.testBit 1 = decide (2 ≤ v) := by
    rw [Nat.testBit_eq_decide_div_mod_eq, decide_eq_decide]
    omega
  simp only [storeQueue, storeConfig_stored hx q (decide_eq_true hv), bindingOf, hbit, Nat.testBit_zero,
    decide_eq_true_eq]

theorem storeQueue_options_badValue (hx : (s.queue q).configurable) (hv : 8 ≤ v) :
    storeQueue q 2 v s = some (.badValue, s) :=
  congrArg some (storeConfig_badValue hx q (decide_eq_false (by omega)) _ s)

/-- 11 Table 11-4: bit 0 of OPTIONS is the stamp, bit 1 the number, bit 2 the policy. -/
theorem storeQueue_options (hx : (s.queue q).configurable) (hv : v < 8) :
    storeQueue q 2 v s = some (.ok, s.setQueue q { s.queue q with
      stamp := decide (v % 2 = 1), number := decide (v / 2 % 2 = 1)
      policy := if 4 ≤ v then .discardOldest else .refuse }) := by
  have hbit : v.testBit 2 = decide (4 ≤ v) := by
    rw [Nat.testBit_eq_decide_div_mod_eq, decide_eq_decide]
    omega
  have hnum : v.testBit 1 = decide (v / 2 % 2 = 1) := Nat.testBit_eq_decide_div_mod_eq
  simp only [storeQueue, storeConfig_stored hx q (decide_eq_true hv), hbit, hnum, Nat.testBit_zero,
    decide_eq_true_eq]

theorem storeQueue_blockLimit_badValue (hx : (s.queue q).configurable) (hv : v = 0 ∨ 1048575 < v) :
    storeQueue q 3 v s = some (.badValue, s) :=
  congrArg some (storeConfig_badValue hx q (decide_eq_false (by rw [Config.maxBlockLimit]; omega)) _ s)

theorem storeQueue_blockLimit (hx : (s.queue q).configurable) (hlo : 1 ≤ v) (hhi : v ≤ 1048575) :
    storeQueue q 3 v s = some (.ok, s.setQueue q { s.queue q with blockLimit := v }) :=
  congrArg some (storeConfig_stored hx q (decide_eq_true ⟨hlo, hhi⟩) _ s)

theorem storeQueue_nextSeq_badValue (hx : (s.queue q).configurable) (hv : 65535 < v) :
    storeQueue q 13 v s = some (.badValue, s) :=
  congrArg some (storeConfig_badValue hx q (decide_eq_false (by omega)) _ s)

theorem storeQueue_nextSeq (hx : (s.queue q).configurable) (hv : v ≤ 65535) :
    storeQueue q 13 v s = some (.ok, s.setQueue q { s.queue q with nextSeq := BitVec.ofNat 16 v }) :=
  congrArg some (storeConfig_stored hx q (decide_eq_true (by omega)) _ s)

theorem storeQueue_watermark_badValue (hv : 65535 < v) : storeQueue q 4 v s = some (.badValue, s) :=
  congrArg some (if_neg (by omega))

/-- 02 R16: a STORE to WATERMARK is taken in any queue state. -/
theorem storeQueue_watermark (hv : v ≤ 65535) :
    storeQueue q 4 v s = some (.ok, s.setQueue q { s.queue q with watermark := v }) :=
  congrArg some (if_pos (by omega))

/-- 02 R16: a STORE to DISCARDS clears it, whatever the value. -/
theorem storeQueue_discards : storeQueue q 14 v s = some (.ok, s.setQueue q { s.queue q with discards := 0 }) := rfl

end

/-! ### The STORE command on a queue page (11 R170) -/

theorem exec_qcmdStore_queue {q : QId} {s : State} (hp : s.window.qres ≠ .pending)
    (hq : s.window.qsel.toNat = q.val) : exec .qcmdStore s = .next (storePage (.queue q) (windowAccess s)) :=
  congrArg Host.Outcome.next (pageCommand_queue (s := windowAccess s) hp hq storePage)

theorem storePage_queue_answered {q : QId} {s t : State} {r : QRes}
    (h : storeQueue q s.window.qfld.toNat (stagedValue s.window) s = some (r, t)) :
    storePage (.queue q) s = setQres r t := by
  simp only [storePage, ownerStore, h]

theorem storePage_queue_noField {q : QId} {s : State} (hf : 16 ≤ s.window.qfld.toNat) :
    storePage (.queue q) s = setQres .badField s := by
  simp only [storePage, ownerStore, storeQueue_noField hf]

/-- Settles O17: STORE answers what the queue page's owner answers, so each clause is the page's answer for that field,
state and range of values (02 R16). -/
theorem storeToQueuePage : Obligations.StoreToQueuePage := by
  intro q s hp hq x f v answer stored
  have answered : ∀ r t, storeQueue q f v (windowAccess s) = some (r, t) →
      exec .qcmdStore s = .next (setQres r t) := by
    intro r t h
    have hpage : storePage (.queue q) (windowAccess s) = setQres r t :=
      storePage_queue_answered (by rwa [windowAccess_qfld, windowAccess_stagedValue, stagedValue_eq])
    rw [exec_qcmdStore_queue hp hq, hpage]
  have noField : 16 ≤ f → answer .badField := fun hf =>
    (exec_qcmdStore_queue hp hq).trans (congrArg Host.Outcome.next (storePage_queue_noField hf))
  clear_value f v
  refine ⟨?badField, ?badState, ?config, ?watermarkOut, ?watermark, ?discards⟩
  case badField =>
    intro hf
    by_cases hpage : 16 ≤ f
    · exact noField hpage
    · exact answered _ _ (storeQueue_readOnly (by omega))
  case badState => exact fun hf hx => answered _ _ (storeQueue_badState hf (Queue.not_configurable_iff.mpr hx))
  case config =>
    intro hoff hempty
    have hx : ((windowAccess s).queue q).configurable := ⟨hoff, hempty⟩
    refine ⟨?_, ?_, ?_, ?_, ?_, ?_, ?_, ?_⟩
    · rintro rfl hv; exact answered _ _ (storeQueue_binding_badValue hx hv)
    · rintro rfl hv; exact answered _ _ (storeQueue_binding hx hv)
    · rintro rfl hv; exact answered _ _ (storeQueue_options_badValue hx hv)
    · rintro rfl hv; exact answered _ _ (storeQueue_options hx hv)
    · rintro rfl hv; exact answered _ _ (storeQueue_blockLimit_badValue hx hv)
    · rintro rfl hlo hhi; exact answered _ _ (storeQueue_blockLimit hx hlo hhi)
    · rintro rfl hv; exact answered _ _ (storeQueue_nextSeq_badValue hx hv)
    · rintro rfl hv; exact answered _ _ (storeQueue_nextSeq hx hv)
  case watermarkOut => rintro rfl hv; exact answered _ _ (storeQueue_watermark_badValue hv)
  case watermark => rintro rfl hv; exact answered _ _ (storeQueue_watermark hv)
  case discards => rintro rfl; exact answered _ _ storeQueue_discards

/-! ### DISABLE (02 R31) -/

theorem disableRefusal_of_off_or_faulted {x : Queue} (hx : x.state = .off ∨ x.state = .faulted) :
    disableRefusal x = some .badState := if_pos hx

theorem disableRefusal_of_active_or_held {x : Queue} (hx : x.state = .active ∨ x.state = .held) :
    disableRefusal x = if x.pin ≠ none ∨ x.openRec ≠ none ∨ x.held then some .busy
      else if x.records ≠ 0 ∨ x.blocks ≠ 0 then some .notEmpty else none := by
  refine if_neg ?_
  obtain h | h := hx <;> simp [h]

theorem exec_qcmdDisable_queue {q : QId} {s : State} (hp : s.window.qres ≠ .pending)
    (hq : s.window.qsel.toNat = q.val) : exec .qcmdDisable s = .next (disableQueue q (windowAccess s)) :=
  congrArg Host.Outcome.next (queueCommand_queue (s := windowAccess s) hp hq disableQueue)

theorem disableQueue_refused {q : QId} {s : State} {r : QRes} (h : disableRefusal (s.queue q) = some r) :
    disableQueue q s = setQres r s := by
  rw [disableQueue, h, answerCommand]

theorem disableQueue_taken {q : QId} {s : State} (h : disableRefusal (s.queue q) = none) :
    disableQueue q s = setQres .ok (s.setQueue q { s.queue q with state := .off }) := by
  rw [disableQueue, h, answerCommand]

/-- Settles O21, by the first of R31's conditions that applies. -/
theorem disableAnswers : Obligations.DisableAnswers := by
  intro q s hp hq x busy refused
  rw [exec_qcmdDisable_queue hp hq]
  have refuses : ∀ r, disableRefusal x = some r → .next (disableQueue q (windowAccess s)) = refused r :=
    fun r h => congrArg Host.Outcome.next (disableQueue_refused h)
  refine ⟨?badState, ?busy, ?notEmpty, ?taken⟩
  case badState => exact fun hx => refuses _ (disableRefusal_of_off_or_faulted hx)
  case busy => exact fun hx hb => refuses _ ((disableRefusal_of_active_or_held hx).trans (if_pos hb))
  case notEmpty =>
    intro hx hb hfull
    refine refuses _ ?_
    rw [disableRefusal_of_active_or_held hx, if_neg hb, if_pos (by omega)]
  case taken =>
    intro hx hb hrec hblk
    have hnone : disableRefusal x = none := by
      rw [disableRefusal_of_active_or_held hx, if_neg hb, if_neg (by omega)]
    exact congrArg Host.Outcome.next (disableQueue_taken hnone)

end Sys2Proof.Machine
end

section
/-! Accesses to DATA: a write by the state of the push context (04 R63), and what a read leaves there (05 R89). -/

namespace Sys2Proof.Machine

/-! ### What leaves the push context -/

@[simp] theorem windowAccess_push (s : State) : (windowAccess s).push = s.push := rfl

@[simp] theorem drive_push (b : Byte) (s : State) : (drive b s).push = s.push := rfl

@[simp] theorem raise_push (c : GlobalCause) (s : State) : (raise c s).push = s.push := rfl

/-- 05 R89: a read of DATA raises a cause, writes the pop context or leaves the state. -/
@[simp] theorem popRead_push (s : State) : (popRead s).push = s.push := by
  unfold popRead
  split
  case h_1 =>
    split
    · exact raise_push .popPastEnd s
    · split
      · exact raise_push .popUnderrun s
      · exact withPop_push s _
  case h_2 => exact raise_push .popUnderrun s
  all_goals rfl

theorem readData_push (s : State) : (readData s).push = s.push := by
  rw [readData, popRead_push, drive_push, windowAccess_push]

/-! ### A DATA write by the state of the push context (04 R63) -/

theorem exec_dataWrite (b : Byte) (s : State) :
    exec (.dataWrite b) s = .next (settle (pushData b (windowAccess s))) := rfl

theorem exec_dataRead (s : State) : exec .dataRead s = .next (settle (readData s)) := rfl

theorem pushData_awaitTag {s : State} (h : s.push.state = .awaitTag) (b : Byte) :
    pushData b s = s.withPush { s.push with state := .filling, w := { s.push.w with tag := some b } } := by
  simp only [pushData, h]

theorem pushData_filling {s : State} (h : s.push.state = .filling) (b : Byte) :
    pushData b s = pushPayload b s := by
  simp only [pushData, h]

theorem pushData_refused {s : State}
    (h : s.push.state = .idle ∨ s.push.state = .committing ∨ s.push.state = .cancelling) (b : Byte) :
    pushData b s = raise .pushProtocol s := by
  obtain h | h | h := h <;> simp only [pushData, h, pushProtocol]

/-- Settles O4, by the state of the push context that the write meets. -/
theorem dataWriteByState : Obligations.DataWriteByState := by
  intro b s
  rw [exec_dataWrite, exec_dataRead]
  refine ⟨?awaitTag, ?filling, ?refused, rfl, readData_push s⟩
  case awaitTag => exact fun h => by rw [pushData_awaitTag (s := windowAccess s) h b, windowAccess_push]
  case filling => exact fun h => by rw [pushData_filling (s := windowAccess s) h b]
  case refused => exact fun h => ⟨by rw [pushData_refused (s := windowAccess s) h b], raise_push _ _⟩

end Sys2Proof.Machine
end

section
/-! The passed-over counts at a choice (07 R136). -/

namespace Sys2Proof.Machine

/-! ### The slot of a client after an update of the slots -/

theorem Slots.get_set (x : Slots) (c d : Client) (v : Slot) :
    (x.set c v).get d = if d = c then v else x.get d := by
  cases c <;> cases d <;> rfl

@[simp] theorem Slots.get_set_same (x : Slots) (c : Client) (v : Slot) : (x.set c v).get c = v :=
  (Slots.get_set x c c v).trans (if_pos rfl)

/-- Setting one client's slot leaves the slot of every other client. -/
theorem Slots.get_set_of_ne {c d : Client} (hd : d ≠ c) (x : Slots) (v : Slot) : (x.set c v).get d = x.get d :=
  (Slots.get_set x c d v).trans (if_neg hd)

@[simp] theorem Slots.get_map (f : Slot → Slot) (x : Slots) (c : Client) : (x.map f).get c = f (x.get c) := by
  cases c <;> rfl

/-! ### The slots after a choice (07 R136) -/

theorem passOver_waiting (r : Request) :
    passOver (.waiting r) = .waiting { r with passed := min 4 (r.passed + 1) } := rfl

/-- 07 R136: only a WAITING slot is passed over. -/
theorem passOver_of_not_waiting {v : Slot} (hv : ∀ r, v ≠ .waiting r) : passOver v = v := by
  cases v with
  | waiting r => exact absurd rfl (hv r)
  | empty | issued r | unconfirmed r => rfl

theorem beginAccess_slot_chosen (c : Client) (r : Request) (x : Seq) :
    (beginAccess c r x).slots.get c = .issued { r with passed := 0 } :=
  Slots.get_set_same _ c _

theorem beginAccess_slot_other {c d : Client} (hd : d ≠ c) (r : Request) (x : Seq) :
    (beginAccess c r x).slots.get d = passOver (x.slots.get d) :=
  (Slots.get_set_of_ne hd _ _).trans (Slots.get_map passOver x.slots d)

@[simp] theorem beginRefresh_slots (x : Seq) : (beginRefresh x).slots = x.slots := rfl

/-- Settles O50, by the slot of the chosen client and that of another one, WAITING or not. -/
theorem passedOverCounts : Obligations.PassedOverCounts := by
  intro x c r _
  refine ⟨beginAccess_slot_chosen c r x, fun d hd => ?other, beginRefresh_slots x⟩
  case other =>
    rw [beginAccess_slot_other hd]
    cases x.slots.get d with
    | waiting u => exact passOver_waiting u
    | empty | issued u | unconfirmed u => exact passOver_of_not_waiting nofun

end Sys2Proof.Machine
end

section
/-! The Event Unit: the marks (10 R158, R163), INT (R165), a read of EVQ (R160) and an acknowledgement (R161). -/

namespace Sys2Proof.Machine

/-! ### Marks set and cleared (10 R158) -/

/-- 10 R158: every global cause has a mark of its own. -/
theorem GlobalCause.mark_injective : Function.Injective (fun g : GlobalCause => g.mark.val) :=
  Function.LeftInverse.injective (g := GlobalCause.ofNat) fun g => by cases g <;> rfl

theorem isPending_setGlobal (g : GlobalCause) (v : Bool) (s : State) (c : Cause) :
    c.isPending (setGlobal g v s) = if c = .global g then v else c.isPending s := by
  cases c with
  | global d =>
    have hmark : g.mark.val = d.mark.val ↔ Cause.global d = .global g := by
      rw [Cause.global.injEq, GlobalCause.mark_injective.eq_iff, eq_comm]
    exact (Vector.getElem_set g.mark.isLt d.mark.isLt).trans (if_congr hmark rfl rfl)
  | queue k q => cases k <;> exact (if_neg nofun).symm
  | watermark q => exact (if_neg nofun).symm

theorem isPending_setQueueCause_same (k : QueueCause) (q r : QId) (v : Bool) (s : State) :
    (Cause.queue k r).isPending (setQueueCause k q v s)
      = if r = q then v else (Cause.queue k r).isPending s := by
  have hq : q.val = r.val ↔ r = q := by rw [Fin.ext_iff, eq_comm]
  cases k <;> exact (Vector.getElem_set q.isLt r.isLt).trans (if_congr hq rfl rfl)

theorem isPending_setQueueCause_of_ne {j k : QueueCause} (hne : j ≠ k) (q r : QId) (v : Bool) (s : State) :
    (Cause.queue j r).isPending (setQueueCause k q v s) = (Cause.queue j r).isPending s := by
  cases k with
  | queueFault => cases j with
    | queueFault => contradiction
    | queueDiscard | nonempty => rfl
  | queueDiscard => cases j with
    | queueDiscard => contradiction
    | queueFault | nonempty => rfl
  | nonempty => cases j with
    | nonempty => contradiction
    | queueFault | queueDiscard => rfl

theorem isPending_setQueueCause (k : QueueCause) (q : QId) (v : Bool) (s : State) (c : Cause) :
    c.isPending (setQueueCause k q v s) = if c = .queue k q then v else c.isPending s := by
  cases c with
  | global g => cases k <;> exact (if_neg nofun).symm
  | watermark r => cases k <;> exact (if_neg nofun).symm
  | queue j r =>
    by_cases hj : j = k
    · subst hj
      simp only [isPending_setQueueCause_same, Cause.queue.injEq, true_and]
    · rw [isPending_setQueueCause_of_ne hj, if_neg (by simp [hj])]

theorem isPending_raise (g : GlobalCause) (s : State) (c : Cause) :
    c.isPending (raise g s) = (decide (c = .global g) || c.isPending s) :=
  (isPending_setGlobal g true s c).trans (Bool.if_true_left ..)

theorem isPending_clear (g : GlobalCause) (s : State) (c : Cause) :
    c.isPending (clear g s) = (!decide (c = .global g) && c.isPending s) :=
  (isPending_setGlobal g false s c).trans (Bool.if_false_left ..)

theorem isPending_raiseQueue (k : QueueCause) (q : QId) (s : State) (c : Cause) :
    c.isPending (raiseQueue k q s) = (decide (c = .queue k q) || c.isPending s) :=
  (isPending_setQueueCause k q true s c).trans (Bool.if_true_left ..)

theorem isPending_clearQueue (k : QueueCause) (q : QId) (s : State) (c : Cause) :
    c.isPending (clearQueue k q s) = (!decide (c = .queue k q) && c.isPending s) :=
  (isPending_setQueueCause k q false s c).trans (Bool.if_false_left ..)

/-! ### The WATERMARK level (10 R163) -/

theorem Queue.atWatermark_iff (x : Queue) :
    x.atWatermark = true ↔ x.watermark ≠ 0 ∧ x.watermark ≤ x.records := by
  simp [Queue.atWatermark]

/-- 10 R163: WATERMARK follows the descriptors alone. -/
theorem isPending_watermark_congr {s t : State} (h : t.queues = s.queues) (q : QId) :
    (Cause.watermark q).isPending t = (Cause.watermark q).isPending s := by
  simp only [Cause.isPending, State.queue, h]

/-! ### What the Event Unit's commands leave -/

@[simp] theorem windowAccess_queues (s : State) : (windowAccess s).queues = s.queues := rfl

@[simp] theorem windowAccess_events (s : State) : (windowAccess s).events = s.events := rfl

@[simp] theorem drive_queues (b : Byte) (s : State) : (drive b s).queues = s.queues := rfl

@[simp] theorem clear_queues (g : GlobalCause) (s : State) : (clear g s).queues = s.queues := rfl

@[simp] theorem clearQueue_queues (k : QueueCause) (q : QId) (s : State) : (clearQueue k q s).queues = s.queues := by
  cases k <;> rfl

theorem clearReported_cases (c : Cause) (s : State) :
    clearReported c s = s ∨ ∃ g, c = .global g ∧ classOf g.code = 4 ∧ clearReported c s = clear g s := by
  cases c with
  | global g =>
    by_cases hclass : classOf g.code = 4
    · exact Or.inr ⟨g, rfl, hclass, if_pos hclass⟩
    · exact Or.inl (if_neg hclass)
  | queue | watermark => exact Or.inl rfl

/-- 10 R159: a read of EVID sets the reported pair, clears at most a global mark and drives the code, so it leaves
whatever these three leave. -/
theorem readEvid_leaves {α : Type} (f : State → α) (hdrive : ∀ b s, f (drive b s) = f s)
    (hreport : ∀ code queue s, f (report code queue s) = f s) (hclear : ∀ g s, f (clear g s) = f s) (s : State) :
    f (readEvid s) = f s := by
  unfold readEvid
  split
  case h_1 => rw [hdrive, hreport]
  case h_2 c _ =>
    rw [hdrive]
    obtain h | ⟨g, -, -, h⟩ := clearReported_cases c (report (BitVec.ofNat 8 c.code) (reportedQueue s c) s)
    · rw [h, hreport]
    · rw [h, hclear, hreport]

theorem readEvid_queues (s : State) : (readEvid s).queues = s.queues :=
  readEvid_leaves State.queues drive_queues (fun _ _ _ => rfl) clear_queues s

theorem readEvid_ackQueue (s : State) : (readEvid s).events.ackQueue = s.events.ackQueue :=
  readEvid_leaves (·.events.ackQueue) (fun _ _ => rfl) (fun _ _ _ => rfl) (fun _ _ => rfl) s

theorem readEvq_queues (s : State) : (readEvq s).queues = s.queues := rfl

theorem acknowledge_queues (code : Byte) (s : State) : (acknowledge code s).queues = s.queues := by
  unfold acknowledge
  split
  · exact clear_queues _ s
  · exact clearQueue_queues _ _ s
  · rfl

theorem exec_evidRead (s : State) : exec .evidRead s = .next (readEvid (windowAccess s)) := rfl

theorem exec_evqRead (s : State) : exec .evqRead s = .next (readEvq (windowAccess s)) := rfl

theorem exec_evack (code : Byte) (s : State) : exec (.evack code) s = .next (acknowledge code (windowAccess s)) := rfl

theorem event_command_queues {c : Instr} {s t : State}
    (hc : c = .evidRead ∨ c = .evqRead ∨ ∃ code, c = .evack code) (h : exec c s = .next t) : t.queues = s.queues := by
  obtain rfl | rfl | ⟨code, rfl⟩ := hc
  · cases (exec_evidRead s).symm.trans h
    rw [readEvid_queues, windowAccess_queues]
  · cases (exec_evqRead s).symm.trans h
    rw [readEvq_queues, windowAccess_queues]
  · cases (exec_evack code s).symm.trans h
    rw [acknowledge_queues, windowAccess_queues]

/-- Settles O26: each mark has a place of its own, and WATERMARK follows the descriptors, which the commands on the
marks leave. -/
theorem marksAndWatermark : Obligations.MarksAndWatermark :=
  ⟨fun g k q c s => ⟨isPending_raise g s c, isPending_clear g s c, isPending_raiseQueue k q s c,
      isPending_clearQueue k q s c⟩,
    fun q s => (s.queue q).atWatermark_iff,
    fun _ _ _ hc h => isPending_watermark_congr (event_command_queues hc h)⟩

/-! ### A read of EVQ (10 R160) -/

/-- Settles O28: EVQ gives the reported queue to the host and to the acknowledge queue, which EVID leaves. -/
theorem evqGivesReportedQueue : Obligations.EvqGivesReportedQueue := by
  refine ⟨fun s => ⟨_, exec_evqRead s, rfl⟩, ?evid, rfl, rfl⟩
  case evid =>
    intro s t h
    cases (exec_evidRead s).symm.trans h
    rw [readEvid_ackQueue, windowAccess_events]

/-! ### EVACK by its code (10 R161) -/

theorem acknowledge_global {code : Byte} {g : GlobalCause} (h : ackedCause code.toNat = some g) (s : State) :
    acknowledge code s = clear g s := by
  simp only [acknowledge, h]

theorem acknowledge_queue {code : Byte} {k : QueueCause} {q : QId} {s : State} (hg : ackedCause code.toNat = none)
    (hk : ackedQueueCause code.toNat = some k) (hq : ackedQueue s.events = some q) :
    acknowledge code s = clearQueue k q s := by
  simp only [acknowledge, hg, hk, hq]

theorem acknowledge_noQueue {code : Byte} {s : State} (hg : ackedCause code.toNat = none)
    (hq : ackedQueue s.events = none) : acknowledge code s = s := by
  simp only [acknowledge, hg, hq]
  cases ackedQueueCause code.toNat <;> rfl

theorem acknowledge_noCause {code : Byte} (hg : ackedCause code.toNat = none)
    (hk : ackedQueueCause code.toNat = none) (s : State) : acknowledge code s = s := by
  simp only [acknowledge, hg, hk]

theorem ackedQueue_eq_some {e : Events} {q : QId} (h : e.ackQueue.toNat = q.val) : ackedQueue e = some q := by
  simp only [ackedQueue, h, q.isLt, dite_true]

theorem ackedQueue_eq_none {e : Events} (h : 24 ≤ e.ackQueue.toNat) : ackedQueue e = none :=
  dif_neg (Nat.not_lt.mpr h)

/-- 10 R161: a global cause of classes B to D is acknowledged by its own code. -/
theorem ackedCause_code {g : GlobalCause} (hlo : 0 < classOf g.code) (hhi : classOf g.code < 4) :
    ackedCause g.code = some g := by
  cases g with
  | arrayFault | poolFault | refreshOverrun => exact absurd hlo (by decide)
  | formatDone | modeDone | arrayAlert => exact absurd hhi (by decide)
  | linkTimeout | linkRejectLimit | linkProtocol | pushRefused | pushTooLong | pushOverrun | pushProtocol
  | popUnderrun | popPastEnd => rfl

/-- 10 R158: the global causes of class A are the two faults and the overrun, those of class E the two completions and
the alert. -/
theorem class_b_to_d_of_ne {g : GlobalCause} (harray : g ≠ .arrayFault) (hpool : g ≠ .poolFault)
    (hrefresh : g ≠ .refreshOverrun) (hformat : g ≠ .formatDone) (hmode : g ≠ .modeDone) (halert : g ≠ .arrayAlert) :
    0 < classOf g.code ∧ classOf g.code < 4 := by
  cases g with
  | arrayFault | poolFault | refreshOverrun | formatDone | modeDone | arrayAlert => contradiction
  | linkTimeout | linkRejectLimit | linkProtocol | pushRefused | pushTooLong | pushOverrun | pushProtocol
  | popUnderrun | popPastEnd => decide

theorem ackedCause_eq_none {n : Nat} (h : n ≤ 0x04 ∨ 0x0F ≤ n) : ackedCause n = none := by
  unfold ackedCause
  split
  case h_10 => rfl
  all_goals omega

theorem ackedQueueCause_eq_none {n : Nat} (h : n ≠ 0x0C) (h' : n ≠ 0x10) : ackedQueueCause n = none := by
  unfold ackedQueueCause
  split
  case h_3 => rfl
  all_goals contradiction

/-- Settles O29, by the code written. -/
theorem evackClearsByCode : Obligations.EvackClearsByCode := by
  intro code s
  rw [exec_evack]
  refine ⟨?global, ?queue, ?noQueue, ?other, rfl⟩
  case global =>
    intro g hcode harray hpool hrefresh hformat hmode halert
    obtain ⟨hlo, hhi⟩ := class_b_to_d_of_ne harray hpool hrefresh hformat hmode halert
    have hacked : ackedCause code.toNat = some g := hcode ▸ ackedCause_code hlo hhi
    rw [acknowledge_global hacked]
  case queue =>
    intro q hq
    have hacked : ackedQueue (windowAccess s).events = some q := ackedQueue_eq_some hq
    refine ⟨?discard, ?nonempty⟩
    case discard => rintro rfl; rw [acknowledge_queue rfl rfl hacked]
    case nonempty => rintro rfl; rw [acknowledge_queue rfl rfl hacked]
  case noQueue =>
    intro hq hcode
    have hacked : ackedQueue (windowAccess s).events = none := ackedQueue_eq_none hq
    obtain rfl | rfl := hcode
    · rw [acknowledge_noQueue rfl hacked]
    · rw [acknowledge_noQueue rfl hacked]
  case other =>
    intro hcode
    have hnat : code.toNat ≤ 0x04 ∨ code.toNat = 0x0F ∨ 0x11 ≤ code.toNat :=
      hcode.imp_right (Or.imp_left (congrArg BitVec.toNat))
    rw [acknowledge_noCause (ackedCause_eq_none (by omega))
      (ackedQueueCause_eq_none (by omega) (by omega))]

/-! ### INT (10 R165) -/

theorem mem_allQueues (q : QId) : q ∈ allQueues := by
  revert q
  decide

/-- 10 R159: the ranking misses no cause. -/
theorem mem_ranking (c : Cause) : c ∈ ranking := by
  cases c with
  | global g => cases g <;> simp [ranking, rankGlobal]
  | queue k q => cases k <;> simp [ranking, rankQueue, mem_allQueues]
  | watermark q => simp [ranking, mem_allQueues]

theorem intLine_iff (s : State) : s.intLine = true ↔
    s.events.even.getLsbD 7 = true
      ∧ ∃ c : Cause, c.isPending s = true ∧ s.events.even.getLsbD (classOf c.code) = true := by
  simp only [State.intLine, masterEnabled, classEnabled, Bool.and_eq_true, List.any_eq_true, mem_ranking, true_and]

/-- Settles O31: INT looks for its cause in the ranking, which names every cause. -/
theorem intLineFollowsMarks : Obligations.IntLineFollowsMarks := ⟨intLine_iff, rfl⟩

end Sys2Proof.Machine
end

section
/-! The register window: the view marks at every access (11 R167), the status bytes by their fields (Table 11-2), and
FETCH (R169). -/

namespace Sys2Proof.Machine

/-! ### The view marks (11 R167) -/

/-- 11 R167: the mark of PSTAT and that of LSTAT. -/
def viewMarks (w : Window) : ViewMark × ViewMark := (w.pushView, w.linkView)

@[simp] theorem viewMarks_windowAccess (s : State) : viewMarks (windowAccess s).window = (.status, .status) := rfl

@[simp] theorem viewMarks_drive (b : Byte) (s : State) : viewMarks (drive b s).window = viewMarks s.window := rfl

@[simp] theorem viewMarks_setQres (r : QRes) (s : State) : viewMarks (setQres r s).window = viewMarks s.window := rfl

/-- 11 R167: no reaction inside an event is an access to the window. -/
theorem Reaction.viewMarks_eq {s t : State} (h : Reaction s t) : viewMarks t.window = viewMarks s.window :=
  (congrArg viewMarks h.window).trans rfl

@[simp] theorem viewMarks_settle (s : State) : viewMarks (settle s).window = viewMarks s.window :=
  (settle_reaction s).viewMarks_eq

/-! ### The engines' own effects leave the window -/

@[simp] theorem raise_window (c : GlobalCause) (s : State) : (raise c s).window = s.window := rfl

@[simp] theorem clear_window (c : GlobalCause) (s : State) : (clear c s).window = s.window := rfl

@[simp] theorem clearQueue_window (c : QueueCause) (q : QId) (s : State) : (clearQueue c q s).window = s.window := by
  cases c <;> rfl

@[simp] theorem pushProtocol_window (s : State) : (pushProtocol s).window = s.window := rfl

@[simp] theorem pushOpen_window (q : QId) (s : State) : (pushOpen q s).window = s.window := by
  unfold pushOpen
  split
  case h_1 => split <;> rfl
  all_goals rfl

@[simp] theorem pushRepeat_window (n : Nat) (s : State) : (pushRepeat n s).window = s.window := by
  unfold pushRepeat
  split <;> rfl

@[simp] theorem pushEnd_window (s : State) : (pushEnd s).window = s.window := by
  unfold pushEnd
  split <;> rfl

@[simp] theorem pushCancelled_window (s : State) : (pushCancelled s).window = s.window := by
  unfold pushCancelled
  split <;> rfl

@[simp] theorem pushControl_window (code : Byte) (s : State) : (pushControl code s).window = s.window := by
  unfold pushControl
  split_ifs <;> simp

theorem pushPayload_window (b : Byte) (s : State) : (pushPayload b s).window = s.window := by
  unfold pushPayload
  split_ifs <;> rfl

@[simp] theorem pushData_window (b : Byte) (s : State) : (pushData b s).window = s.window := by
  unfold pushData
  split
  case h_2 => exact pushPayload_window b s
  all_goals rfl

@[simp] theorem popReturned_window (s : State) : (popReturned s).window = s.window := by
  unfold popReturned
  dsimp only
  split <;> rfl

@[simp] theorem setPopResult_window (r : PopResult) (s : State) : (setPopResult r s).window = s.window := rfl

@[simp] theorem popSelect_window (q : QId) (s : State) : (popSelect q s).window = s.window := by
  unfold popSelect
  split
  case h_1 => split <;> rfl
  all_goals rfl

@[simp] theorem popRelease_window (s : State) : (popRelease s).window = s.window := by
  unfold popRelease
  split <;> rfl

@[simp] theorem popReturn_window (s : State) : (popReturn s).window = s.window := by
  unfold popReturn
  split <;> simp

@[simp] theorem popRewind_window (s : State) : (popRewind s).window = s.window := by
  unfold popRewind
  split <;> rfl

@[simp] theorem popControl_window (code : Byte) (s : State) : (popControl code s).window = s.window := by
  unfold popControl
  split_ifs <;> simp

/-- 05 R89: a read of DATA raises a cause, writes the pop context or leaves the state. -/
@[simp] theorem popRead_window (s : State) : (popRead s).window = s.window := by
  unfold popRead
  split
  case h_1 =>
    split
    · exact raise_window .popPastEnd s
    · split
      · exact raise_window .popUnderrun s
      · exact withPop_window s _
  case h_2 => exact raise_window .popUnderrun s
  all_goals rfl

@[simp] theorem linkStart_window (s : State) : (linkStart s).window = s.window := by
  unfold linkStart
  split <;> rfl

theorem outAbandon_window (s : State) : (outAbandon s).window = s.window := by
  unfold outAbandon
  split
  case h_3 | h_4 => dsimp only; split <;> rfl
  all_goals rfl

theorem viewMarks_inAbandon (s : State) : viewMarks (inAbandon s).window = viewMarks s.window := by
  unfold inAbandon
  split
  case h_1 | h_2 => exact (inboundReject_reacts (Reaction.refl s)).viewMarks_eq
  all_goals rfl

@[simp] theorem viewMarks_linkStop (s : State) : viewMarks (linkStop s).window = viewMarks s.window := by
  unfold linkStop
  split
  · rfl
  · exact (viewMarks_inAbandon _).trans (congrArg viewMarks (outAbandon_window s))

@[simp] theorem setLinkResult_window (r : LinkResult) (s : State) : (setLinkResult r s).window = s.window := rfl

@[simp] theorem viewMarks_linkControl (code : Byte) (s : State) :
    viewMarks (linkControl code s).window = viewMarks s.window := by
  unfold linkControl
  split_ifs <;> simp

/-! ### MODE (09 R150) -/

@[simp] theorem setModeResult_window (r : ModeResult) (s : State) : (setModeResult r s).window = s.window := rfl

@[simp] theorem requestRun_window (s : State) : (requestRun s).window = s.window := by
  unfold requestRun
  split_ifs <;> rfl

@[simp] theorem requestStop_window (s : State) : (requestStop s).window = s.window := by
  unfold requestStop
  split <;> rfl

@[simp] theorem pushAbort_window (s : State) : (pushAbort s).window = s.window := by
  unfold pushAbort
  split <;> rfl

@[simp] theorem popAbort_window (s : State) : (popAbort s).window = s.window := by
  unfold popAbort
  split <;> simp

theorem viewMarks_abortActions (s : State) : viewMarks (abortActions s).window = viewMarks s.window := by
  simp only [abortActions, viewMarks_linkStop, popAbort_window, pushAbort_window]

@[simp] theorem viewMarks_requestAbort (s : State) : viewMarks (requestAbort s).window = viewMarks s.window := by
  unfold requestAbort
  split
  case h_1 | h_3 => exact viewMarks_abortActions _
  all_goals rfl

@[simp] theorem requestConfig_window (s : State) : (requestConfig s).window = s.window := by
  unfold requestConfig
  split <;> rfl

@[simp] theorem viewMarks_modeRequest (code : Byte) (s : State) :
    viewMarks (modeRequest code s).window = viewMarks s.window := by
  unfold modeRequest
  split_ifs <;> simp

/-! ### CMD (11 R171) -/

@[simp] theorem setCommand_window (r : CmdResult) (s : State) : (setCommand r s).window = s.window := rfl

@[simp] theorem arraySwitchOn_window (s : State) : (arraySwitchOn s).window = s.window := by
  unfold arraySwitchOn
  split_ifs <;> rfl

/-- 03 R52: the works that end with their handovers answer in QRES alone. -/
theorem viewMarks_poolLeaves (x : PoolState) (s : State) :
    viewMarks (poolLeaves x s).window = viewMarks s.window :=
  (takeHandovers_reacts _ (withPool_reacts (Reaction.refl s))).viewMarks_eq

@[simp] theorem viewMarks_arraySwitchOff (s : State) : viewMarks (arraySwitchOff s).window = viewMarks s.window := by
  unfold arraySwitchOff
  split
  · rfl
  · exact viewMarks_poolLeaves .unformatted (s.withSeq s.seq.switchedOff)

@[simp] theorem viewMarks_formatBegins (s : State) : viewMarks (formatBegins s).window = viewMarks s.window := by
  unfold formatBegins
  split_ifs
  · rfl
  · rfl
  · exact (failAllocs_reacts (Reaction.refl _)).viewMarks_eq.trans (viewMarks_poolLeaves .formatting s)

@[simp] theorem stampCleared_window (s : State) : (stampCleared s).window = s.window := rfl

@[simp] theorem viewMarks_globalCommand (code : Byte) (s : State) :
    viewMarks (globalCommand code stampCleared s).window = viewMarks s.window := by
  unfold globalCommand
  split_ifs <;> simp

/-! ### QCMD (11 R168) -/

@[simp] theorem viewMarks_fetchPage (p : Page) (s : State) :
    viewMarks (fetchPage p s).window = viewMarks s.window := by
  unfold fetchPage
  split <;> rfl

theorem storeConfig_window (x : Queue) (q : QId) (inRange : Bool) (y : Queue) (s : State) :
    (storeConfig x q inRange y s).2.window = s.window := by
  unfold storeConfig
  split_ifs <;> rfl

theorem storeParameter_window (y : Option Link) (s : State) : (storeParameter y s).2.window = s.window := by
  unfold storeParameter
  split
  · rfl
  · split <;> rfl

theorem storeShape_window (y : Option Seq) (s : State) : (storeShape y s).2.window = s.window := by
  unfold storeShape
  split_ifs
  · rfl
  · rfl
  · split <;> rfl

theorem storePrescale_window (v : Nat) (s : State) : (storePrescale v s).2.window = s.window := by
  unfold storePrescale
  split <;> rfl

theorem storeQueue_window {q : QId} {f v : Nat} {s : State} {x : Stored} (h : storeQueue q f v s = some x) :
    x.2.window = s.window := by
  unfold storeQueue at h
  split at h
  case h_11 | h_12 | h_13 | h_15 => cases h; exact storeConfig_window ..
  case h_14 => cases h; split <;> rfl
  case h_17 => cases h
  all_goals cases h; rfl

theorem storeLink_window {f v : Nat} {s : State} {x : Stored} (h : storeLink f v s = some x) :
    x.2.window = s.window := by
  unfold storeLink at h
  split at h
  case h_1 | h_2 | h_3 | h_4 | h_5 => cases h; exact storeParameter_window ..
  case h_10 => cases h
  all_goals cases h; rfl

theorem storeArray_window {f v : Nat} {s : State} {x : Stored} (h : storeArray f v s = some x) :
    x.2.window = s.window := by
  unfold storeArray at h
  split at h
  case h_1 | h_2 | h_3 | h_4 | h_5 | h_6 => cases h; exact storeShape_window ..
  case h_16 => cases h; exact storePrescale_window ..
  case h_17 => cases h
  all_goals cases h; rfl

theorem ownerStore_window {p : Page} {f v : Nat} {s : State} {x : Stored} (h : ownerStore p f v s = some x) :
    x.2.window = s.window := by
  cases p with
  | queue q => exact storeQueue_window h
  | link => exact storeLink_window h
  | array => exact storeArray_window h

@[simp] theorem viewMarks_storePage (p : Page) (s : State) :
    viewMarks (storePage p s).window = viewMarks s.window := by
  unfold storePage
  split
  case h_1 => rfl
  case h_2 h => exact (viewMarks_setQres ..).trans (congrArg viewMarks (ownerStore_window h))

theorem viewMarks_pageCommand {f : Page → State → State}
    (hf : ∀ p s, viewMarks (f p s).window = viewMarks s.window) (s : State) :
    viewMarks (pageCommand f s).window = viewMarks s.window := by
  unfold pageCommand
  split
  · rfl
  · split
    · exact hf ..
    · rfl

theorem viewMarks_queueCommand {f : QId → State → State}
    (hf : ∀ q s, viewMarks (f q s).window = viewMarks s.window) (s : State) :
    viewMarks (queueCommand f s).window = viewMarks s.window := by
  unfold queueCommand
  split
  · rfl
  · split
    · exact hf ..
    all_goals rfl

theorem viewMarks_answerCommand (q : QId) (refusal : Option QRes) (y : Queue) (s : State) :
    viewMarks (answerCommand q refusal y s).window = viewMarks s.window := by
  cases refusal <;> rfl

@[simp] theorem viewMarks_enableQueue (q : QId) (s : State) :
    viewMarks (enableQueue q s).window = viewMarks s.window := viewMarks_answerCommand ..

@[simp] theorem viewMarks_disableQueue (q : QId) (s : State) :
    viewMarks (disableQueue q s).window = viewMarks s.window := viewMarks_answerCommand ..

@[simp] theorem viewMarks_holdQueue (q : QId) (s : State) :
    viewMarks (holdQueue q s).window = viewMarks s.window := viewMarks_answerCommand ..

@[simp] theorem viewMarks_resumeQueue (q : QId) (s : State) :
    viewMarks (resumeQueue q s).window = viewMarks s.window := viewMarks_answerCommand ..

@[simp] theorem viewMarks_flushQueue (q : QId) (s : State) :
    viewMarks (flushQueue q s).window = viewMarks s.window := by
  unfold flushQueue
  split
  · rfl
  · split
    · rfl
    · exact (beginWork_reacts (Reaction.refl (setQres .pending s))).viewMarks_eq

@[simp] theorem viewMarks_clearFault (q : QId) (s : State) :
    viewMarks (clearFault q s).window = viewMarks s.window := by
  unfold clearFault
  split <;> rfl

/-- 11 R168: whatever a QCMD write does to QRES and QV0 to QV2, it leaves the marks. -/
@[simp] theorem viewMarks_queueControl (code : Byte) (s : State) :
    viewMarks (queueControl code s).window = viewMarks s.window := by
  unfold queueControl
  split_ifs <;> simp [viewMarks_pageCommand, viewMarks_queueCommand]

/-! ### The Event Unit (10) and the registers without a row of their own (11 R166) -/

@[simp] theorem viewMarks_readEvid (s : State) : viewMarks (readEvid s).window = viewMarks s.window :=
  readEvid_leaves (fun s => viewMarks s.window) viewMarks_drive (fun _ _ _ => rfl) (fun _ _ => rfl) s

@[simp] theorem viewMarks_readEvq (s : State) : viewMarks (readEvq s).window = viewMarks s.window := rfl

@[simp] theorem writeEven_window (v : Byte) (s : State) : (writeEven v s).window = s.window := rfl

@[simp] theorem acknowledge_window (code : Byte) (s : State) : (acknowledge code s).window = s.window := by
  unfold acknowledge
  split <;> simp

@[simp] theorem viewMarks_storeRegister (o : Nat) (v : Byte) (w : Window) :
    viewMarks (storeRegister o v w) = viewMarks w := by
  unfold storeRegister
  split <;> rfl

@[simp] theorem viewMarks_writeOwnRow (o : Nat) (v : Byte) (s : State) :
    viewMarks (writeOwnRow o v s).window = viewMarks s.window := by
  unfold writeOwnRow
  split <;> simp

@[simp] theorem viewMarks_readData (s : State) : viewMarks (readData s).window = (.status, .status) := by
  simp only [readData, popRead_window, viewMarks_drive, viewMarks_windowAccess]

/-- 11 Table 11-1: only DATA, PSTAT, EVID, EVQ and LSTAT have no byte that a read leaves as it is. -/
theorem eq_of_registerByte_eq_none {s : State} {n : Nat} (h : registerByte s n = none) (hn : n < 32) :
    n = 0x00 ∨ n = 0x01 ∨ n = 0x14 ∨ n = 0x15 ∨ n = 0x18 := by
  unfold registerByte at h
  split at h
  case h_28 =>
    simp only [imp_false] at *
    omega
  all_goals cases h

/-! ### Every access to the window -/

/-- The outcome leaves both marks at STATUS. -/
def StatusMarks (o : Outcome) : Prop := ∀ t, o = .next t → viewMarks t.window = (.status, .status)

theorem StatusMarks.next {t : State} (h : viewMarks t.window = (.status, .status)) : StatusMarks (.next t) := by
  rintro _ ⟨⟩
  exact h

theorem StatusMarks.ite {p : Prop} [Decidable p] {t u : State} (ht : viewMarks t.window = (.status, .status))
    (hu : viewMarks u.window = (.status, .status)) : StatusMarks (if p then .next t else .next u) := by
  split
  · exact .next ht
  · exact .next hu

theorem exec_of_readsPstat {c : Instr} (h : readsPstat c = true) (s : State) : exec c s = .next (readPstat s) := by
  unfold readsPstat at h
  split at h
  case h_3 => cases h
  all_goals rfl

theorem exec_of_readsLstat {c : Instr} (h : readsLstat c = true) (s : State) : exec c s = .next (readLstat s) := by
  unfold readsLstat at h
  split at h
  case h_3 => cases h
  all_goals rfl

theorem registerReadOther_statusMarks {o : Fin 32} (hp : readsPstat (.registerReadOther o) = false)
    (hl : readsLstat (.registerReadOther o) = false) (s : State) : StatusMarks (exec (.registerReadOther o) s) := by
  change StatusMarks (execRegisterReadOther o s)
  unfold execRegisterReadOther
  split
  case h_1 => exact .next (by simp)
  case h_2 hnone =>
    obtain ⟨n, hn⟩ := o
    obtain rfl | rfl | rfl | rfl | rfl := eq_of_registerByte_eq_none hnone hn
    · exact .next (by simp [readOwnRow])
    · cases hp
    · exact .next (by simp [readOwnRow])
    · exact .next (by simp [readOwnRow])
    · cases hl

/-- 11 R167: an access but a status read acts on the window that `windowAccess` leaves, and what it does
there keeps the marks. -/
theorem access_statusMarks {c : Instr} (hc : isAccess c = true) (hp : readsPstat c = false)
    (hl : readsLstat c = false) (s : State) : StatusMarks (exec c s) := by
  cases c with
  | dataWrite | dataRead => exact .next (by simp)
  | pctlOpen | pctlRepeat | pctlEnd | pctlCancel => exact .next (by simp)
  | octlSelect | octlRelease | octlReturn | octlRewind => exact .next (by simp)
  | qcmdFetch | qcmdStore => exact .next (by simp [viewMarks_pageCommand])
  | qcmdEnable | qcmdDisable | qcmdHold | qcmdResume | qcmdFlush | qcmdClearfault =>
    exact .next (by simp [viewMarks_queueCommand])
  | modeRun | modeStop | modeAbort | modeConfig => exact .next (by simp)
  | evidRead | evqRead | evenWrite | evack => exact .next (by simp)
  | lcmdStart | lcmdStop => exact .next (by simp)
  | arrayOn | arrayOff | format | stampClear => exact .next (by simp)
  | pctlUndefinedCode | octlUndefinedCode | qcmdUndefinedCode | modeUndefinedCode | lcmdUndefinedCode
  | cmdUndefinedCode => exact .ite (by simp) (by simp)
  | registerWriteOther => exact .ite (by simp) (by simp)
  | registerReadOther => exact registerReadOther_statusMarks hp hl s
  | pstatRead => cases hp
  | lstatRead => cases hl
  | reset | alert | lreqRise | lreqFall | peerAccept | peerReject | lackRise | lackFall | linkBegin
  | inboundDataByte | inboundEnd | inboundAbort | strayByte | lstbFall | linkTimeout | idleGrantExpiry | stampTick
  | refreshTimerExpiry | confirmation | accessCompletion | refreshCompletion | startCloseAllDone
  | startRefreshDone | recoveryCloseAllDone | reissueCompletion => cases hc

/-- 11 R167: a status read turns its own mark and, as any access, sets the other one. -/
theorem access_marks {c : Instr} {s t : State} (hc : isAccess c = true) (h : exec c s = .next t) :
    (readsPstat c = false → t.window.pushView = .status)
      ∧ (readsLstat c = false → t.window.linkView = .status) := by
  cases hp : readsPstat c with
  | true =>
    cases (exec_of_readsPstat hp s).symm.trans h
    exact ⟨nofun, fun _ => rfl⟩
  | false =>
    cases hl : readsLstat c with
    | true =>
      cases (exec_of_readsLstat hl s).symm.trans h
      exact ⟨fun _ => rfl, nofun⟩
    | false =>
      obtain ⟨hpush, hlink⟩ := Prod.mk.inj (access_statusMarks hc hp hl s t h)
      exact ⟨fun _ => hpush, fun _ => hlink⟩

/-! ### The status bytes by their fields (11 Table 11-2) -/

/-- The byte is the number n, which takes the bits below bit i. -/
def Spells (b : Byte) (i n : Nat) : Prop := b.toNat = n ∧ n < 2 ^ i

/-- A code from bit 0 on. -/
theorem spells_code {n i : Nat} (hn : n < 2 ^ i) (hi : i ≤ 8 := by decide) : Spells (codeAt 0 n) i n := by
  have hbyte : n < 2 ^ 8 := hn.trans_le (Nat.pow_le_pow_right (by decide) hi)
  refine ⟨?_, hn⟩
  rw [codeAt, pow_zero, mul_one, BitVec.toNat_ofNat, Nat.mod_eq_of_lt hbyte]

/-- A field placed right above the bits taken so far adds its value at its place. -/
theorem Spells.code {b : Byte} {i n m k : Nat} (hb : Spells b i n) (hm : m < 2 ^ k) (hi : i + k ≤ 8 := by decide) :
    Spells (b ||| codeAt i m) (i + k) (n + 2 ^ i * m) := by
  obtain ⟨hval, hn⟩ := hb
  have hfield : n + 2 ^ i * m < 2 ^ (i + k) := by
    calc n + 2 ^ i * m < 2 ^ i * (m + 1) := by rw [mul_add]; omega
      _ ≤ 2 ^ i * 2 ^ k := Nat.mul_le_mul_left _ hm
      _ = 2 ^ (i + k) := (pow_add ..).symm
  have hbyte : n + 2 ^ i * m < 2 ^ 8 := hfield.trans_le (Nat.pow_le_pow_right (by decide) hi)
  refine ⟨?_, hfield⟩
  rw [BitVec.toNat_or, hval, codeAt, BitVec.toNat_ofNat, mul_comm m, Nat.mod_eq_of_lt (by omega), Nat.or_comm,
    ← Nat.two_pow_add_eq_or_of_lt hn, add_comm]

theorem bitAt_eq_codeAt (i : Nat) (v : Bool) : bitAt i v = codeAt i (flagBit v) := by
  cases v <;> simp [bitAt, codeAt, flagBit]

/-- A flag right above the bits taken so far. -/
theorem Spells.bit {b : Byte} {i n : Nat} (hb : Spells b i n) (v : Bool) (hi : i + 1 ≤ 8 := by decide) :
    Spells (b ||| bitAt i v) (i + 1) (n + 2 ^ i * flagBit v) := by
  rw [bitAt_eq_codeAt]
  exact hb.code (by cases v <;> decide) hi

/-! The width of each code of Table 11-2. -/

theorem PushState.code_lt (x : PushState) : x.code < 2 ^ 3 := by cases x <;> decide
theorem PushResult.code_lt (x : PushResult) : x.code < 2 ^ 4 := by cases x <;> decide
theorem PopState.code_lt (x : PopState) : x.code < 2 ^ 2 := by cases x <;> decide
theorem PopResult.code_lt (x : PopResult) : x.code < 2 ^ 4 := by cases x <;> decide
theorem LinkState.code_lt (x : LinkState) : x.code < 2 ^ 3 := by cases x <;> decide
theorem LinkResult.code_lt (x : LinkResult) : x.code < 2 ^ 4 := by cases x <;> decide
theorem Mode.code_lt (x : Mode) : x.code < 2 ^ 3 := by cases x <;> decide
theorem ModeResult.code_lt (x : ModeResult) : x.code < 2 ^ 3 := by cases x <;> decide
theorem SeqState.code_lt (x : SeqState) : x.code < 2 ^ 3 := by cases x <;> decide
theorem PoolState.code_lt (x : PoolState) : x.code < 2 ^ 2 := by cases x <;> decide
theorem CmdResult.code_lt (x : CmdResult) : x.code < 2 ^ 3 := by cases x <;> decide

theorem stopCode_lt (x : Option Stop) : stopCode x < 2 ^ 2 := by
  cases x with
  | none => decide
  | some k => cases k <;> decide

/-- 04 R64: full for a DATA write. -/
theorem Push.full_eq (x : Push) : x.full = decide (x.remainder ≠ none ∨ 64 ≤ x.w.buf.length) := by
  rw [Push.full, Bool.eq_iff_iff]
  simp only [Bool.or_eq_true, Option.isSome_iff_ne_none, decide_eq_true_eq]
  rfl

theorem Push.empty_eq (x : Push) : x.empty = decide (x.remainder = none ∧ x.w.buf = []) := by
  rw [Push.empty, Bool.eq_iff_iff]
  simp [and_comm]

theorem pstatStatus_toNat (x : Push) : (pstatStatus x).toNat = x.state.code
    + 8 * flagBit (decide (x.remainder ≠ none ∨ 64 ≤ x.w.buf.length))
    + 16 * flagBit (decide (x.remainder = none ∧ x.w.buf = [])) + 32 * flagBit (decide (x.armed ≠ none))
    + 64 * flagBit x.lost := by
  have harmed : decide (x.armed ≠ none) = x.armed.isSome := by cases x.armed <;> rfl
  rw [← x.full_eq, ← x.empty_eq, harmed]
  exact (((((spells_code x.state.code_lt).bit _).bit _).bit _).bit _).1

theorem ostat_toNat (x : Pop) : (ostat x).toNat = x.state.code + 4 * flagBit (decide (x.r.buf ≠ []))
    + 8 * flagBit (decide (x.state = .ready ∧ x.r.remaining = 0)) + 16 * x.last.code := by
  have hbuf : decide (x.r.buf ≠ []) = !x.r.buf.isEmpty := by cases x.r.buf <;> rfl
  have hend : decide (x.state = .ready ∧ x.r.remaining = 0) = (x.state == .ready && x.r.remaining == 0) :=
    Bool.decide_and ..
  rw [hbuf, hend]
  exact ((((spells_code x.state.code_lt).bit _).bit _).code x.last.code_lt).1

theorem lstatStatus_toNat (x : Link) : (lstatStatus x).toNat = x.state.code
    + 8 * flagBit (decide (x.turn = .reverse)) + 16 * flagBit x.lreq + 32 * flagBit x.lines.lgnt
    + 64 * flagBit (decide (x.out.state ≠ .idle)) + 128 * flagBit (decide (x.inb.state ≠ .idle)) := by
  rw [decide_not, decide_not]
  exact ((((((spells_code x.state.code_lt).bit _).bit _).bit _).bit _).bit _).1

theorem modeByte_toNat (x : ModeCtl) :
    (modeByte x).toNat = x.mode.code + 8 * stopCode x.stop + 32 * x.last.code :=
  (((spells_code x.mode.code_lt).code (stopCode_lt x.stop)).code x.last.code_lt).1

theorem gstat_toNat (s : State) :
    (gstat s).toNat = s.seq.state.code + 8 * s.pool.state.code + 32 * s.seq.lastCommand.code :=
  (((spells_code s.seq.state.code_lt).code s.pool.state.code_lt).code s.seq.lastCommand.code_lt).1

/-- Settles O51: the marks by whether the access is a status read, and each status byte field by field from bit 0. -/
theorem viewMarksAndStatusBytes : Obligations.ViewMarksAndStatusBytes := by
  refine ⟨fun _ _ _ hc h => access_marks hc h, fun s => ⟨⟨_, rfl, ?pstat⟩, ⟨_, rfl, ?lstat⟩⟩,
    fun s => ⟨pstatStatus_toNat s.push, (spells_code s.push.last.code_lt).1, ostat_toNat s.pop,
      lstatStatus_toNat s.link, (spells_code s.link.last.code_lt).1, modeByte_toNat s.modeCtl,
      gstat_toNat s⟩⟩
  case pstat => cases hview : s.window.pushView <;> simp only [readPstat, pstatByte, ViewMark.turned, hview]
  case lstat => cases hview : s.window.linkView <;> simp only [readLstat, lstatByte, hview]

/-! ### FETCH (11 R169, Tables 11-4 to 11-6) -/

theorem pageCommand_page {s : State} {p : Page} (hq : s.window.qres ≠ .pending)
    (hp : pageOf s.window.qsel = some p) (f : Page → State → State) : pageCommand f s = f p s := by
  rw [pageCommand, if_neg hq, hp]

theorem exec_qcmdFetch_page {s : State} {p : Page} (hq : s.window.qres ≠ .pending)
    (hp : pageOf s.window.qsel = some p) : exec .qcmdFetch s = .next (fetchPage p (windowAccess s)) :=
  congrArg Host.Outcome.next (pageCommand_page (s := windowAccess s) hq hp fetchPage)

theorem fieldValue_windowAccess (s : State) (p : Page) (f : Nat) :
    fieldValue (windowAccess s) p f = fieldValue s p f := by
  cases p <;> rfl

/-- 11 Tables 11-4 to 11-6: how many fields a page has. -/
def Page.fields : Page → Nat
  | .queue _ => 16 | .link => 9 | .array => 16

/-- 11 R169: the fields of a page are numbered from 0 without a gap. -/
theorem fieldValue_eq_none_iff (s : State) (p : Page) (f : Nat) : fieldValue s p f = none ↔ p.fields ≤ f := by
  cases p with
  | queue q =>
    simp only [fieldValue, fetchQueue, Page.fields]
    split
    case h_17 =>
      simp only [imp_false] at *
      exact iff_of_true trivial (by omega)
    all_goals simp
  | link =>
    simp only [fieldValue, fetchLink, Page.fields]
    split
    case h_10 =>
      simp only [imp_false] at *
      exact iff_of_true trivial (by omega)
    all_goals simp
  | array =>
    simp only [fieldValue, fetchArray, Page.fields]
    split
    case h_17 =>
      simp only [imp_false] at *
      exact iff_of_true trivial (by omega)
    all_goals simp

theorem fetchPage_noField {s : State} {p : Page} (h : fieldValue s p s.window.qfld.toNat = none) :
    fetchPage p s = setQres .badField s := by
  rw [fetchPage, h]

theorem fetchPage_field {s : State} {p : Page} {n : Nat} (h : fieldValue s p s.window.qfld.toNat = some n) :
    fetchPage p s = s.withWindow { s.window with
      qv0 := BitVec.ofNat 8 (n / 65536), qv1 := BitVec.ofNat 8 (n / 256), qv2 := BitVec.ofNat 8 n, qres := .ok } := by
  have hlow : byteOf n 0 = BitVec.ofNat 8 n := by rw [byteOf, pow_zero, Nat.div_one]
  rw [fetchPage, h, ← hlow]
  rfl

/-- Settles O16: FETCH by whether the page has the field, and the three tables read field by field. -/
theorem fetchReadsField : Obligations.FetchReadsField := by
  refine ⟨fun p s hq hp => ?fetch, fun q s => ⟨rfl, rfl, rfl⟩⟩
  case fetch =>
    intro f fields
    have hfields : fields = p.fields := by cases p <;> rfl
    rw [exec_qcmdFetch_page hq hp, hfields]
    refine ⟨fun hf => ?noField, fun hf => ?field⟩
    case noField =>
      have hnone := (fieldValue_eq_none_iff (windowAccess s) p f).mpr hf
      rw [fetchPage_noField hnone]
    case field =>
      have hsome : fieldValue s p f ≠ none := fun h => Nat.not_le.mpr hf ((fieldValue_eq_none_iff s p f).mp h)
      obtain ⟨n, hn⟩ := Option.ne_none_iff_exists'.mp hsome
      refine ⟨n, hn, ?_⟩
      rw [fetchPage_field ((fieldValue_windowAccess s p f).trans hn)]

end Sys2Proof.Machine
end

section
/-! What holds over every step: a property that every command's own effect and the reactions keep is kept by `exec` and by
`step` (`exec_keeps`, `step_keeps`); the canonical array, the legal sequencer, the ranges, the mode and the enables. -/

namespace Sys2Proof.Machine

/-! ### A command's own effect that is no event of the sequencer, no OPEN and no RESET -/

/-- Such an effect leaves what `Calm` says and keeps the ranges. -/
structure Quiet (s t : State) : Prop where
  calm : Calm s t
  range : InRange s → InRange t

/-- 11 R166: the command acts on the window that its access leaves. -/
theorem Quiet.access {s t : State} (hcalm : ∀ {u}, Calm u (windowAccess s) → Calm u t)
    (hrange : InRange (windowAccess s) → InRange t) : Quiet s t :=
  ⟨hcalm (windowAccess_calm (.refl s)), fun h => hrange (windowAccess_inRange h)⟩

theorem setRegister_quiet (o : Nat) (v : Byte) (s : State) :
    Quiet s ((windowAccess s).withWindow (storeRegister o v (windowAccess s).window)) :=
  .access (fun h => withWindow_calm h) withWindow_inRange

theorem drive_access_quiet (b : Byte) (s : State) : Quiet s (drive b (windowAccess s)) :=
  .access (fun h => drive_calm h) drive_inRange

/-! ### Properties that a command keeps -/

/-- The command is a PCTL write of an OPEN code (04 Table 4-1). -/
def OpensRecord (c : Instr) : Prop :=
  (∃ q, c = .pctlOpen q)
    ∨ ∃ code : Byte, (c = .pctlUndefinedCode code ∨ c = .registerWriteOther 0x01 code)
        ∧ 0x60 ≤ code.toNat ∧ code.toNat ≤ 0x77

/-- Every effect that the command may have, and the reactions, keep the property. -/
structure Keeps (I : State → Prop) (c : Instr) : Prop where
  settle : ∀ {s}, I s → I (settle s)
  quiet : ∀ {s t}, Quiet s t → I s → I t
  reset : ∀ {s}, c = .reset → I s → I (resetPart s)
  opens : ∀ {s} q, OpensRecord c → I s → I (pushOpen q s)
  leavesHalted : ∀ {s}, I s → I (requestConfig s)
  switchOn : ∀ {s}, I s → I (arraySwitchOn s)
  switchOff : ∀ {s}, I s → I (arraySwitchOff s)
  alert : ∀ {s}, I s → I (alertRaised s)
  expiry : ∀ {s}, I s → I (refreshExpired s)
  confirmation : ∀ {s}, I s → I (confirmFront s)
  refreshDone : ∀ {s}, I s → I (refreshDone s)
  startClosed : ∀ {s}, I s → I (startClosed s)
  startRefreshed : ∀ {s}, I s → I (startRefreshed s)
  recoveryClosed : ∀ {s}, I s → I (recoveryClosed s)
  access : ∀ {s reply k r}, c = .accessCompletion reply → accessInProgress s.seq = some (k, r) → I s →
    I (accessDone k r reply s)
  reissue : ∀ {s reply e}, c = .reissueCompletion reply → reissueInProgress s.seq = some e → I s →
    I (reissueDone e reply s)

/-- The outcome, where it is a next state, has the property. -/
def Ends (I : State → Prop) (o : Outcome) : Prop := ∀ t, o = .next t → I t

section
variable {I : State → Prop} {c : Instr} {s : State}

theorem Ends.next {t : State} (h : I t) : Ends I (.next t) := by
  rintro _ ⟨⟩
  exact h

theorem Ends.fault {r : Fault} : Ends I (.fault r) := fun _ h => nomatch h

theorem Ends.ite {p : Prop} [Decidable p] {t u : State} (ht : I t) (hu : I u) :
    Ends I (if p then .next t else .next u) := by
  split
  · exact .next ht
  · exact .next hu

namespace Keeps
variable (K : Keeps I c)
include K

/-- A quiet effect that the reactions do not follow. -/
theorem own {t : State} (hs : I s) (h : Quiet s t) : Ends I (.next t) := .next (K.quiet h hs)

/-- A quiet effect and the reactions of its event. -/
theorem event {t : State} (hs : I s) (h : Quiet s t) : Ends I (.next (Machine.settle t)) :=
  .next (K.settle (K.quiet h hs))

theorem windowAccess (hs : I s) : I (windowAccess s) :=
  K.quiet (.access (fun h => h) id) hs

/-- 04 Table 4-1: a PCTL write by its code. -/
theorem pushControl {code : Byte} (hc : 0x60 ≤ code.toNat → code.toNat ≤ 0x77 → OpensRecord c) (hs : I s) :
    I (pushControl code s) := by
  unfold Machine.pushControl
  split_ifs with _ _ _ hopen
  · exact K.quiet ⟨pushRepeat_calm (.refl s), pushRepeat_inRange⟩ hs
  · exact K.quiet ⟨pushEnd_calm (.refl s), pushEnd_inRange⟩ hs
  · exact K.quiet ⟨pushCancelled_calm (.refl s), pushCancelled_inRange⟩ hs
  · exact K.opens _ (hc hopen.1 hopen.2) hs
  · exact K.quiet ⟨pushProtocol_calm (.refl s), pushProtocol_inRange⟩ hs

/-- 09 Table 9-1: a MODE write by its code. -/
theorem modeRequest (code : Byte) (hs : I s) : I (modeRequest code s) := by
  unfold Machine.modeRequest
  split_ifs
  · exact K.quiet ⟨requestRun_calm (.refl s), requestRun_inRange⟩ hs
  · exact K.quiet ⟨requestStop_calm (.refl s), requestStop_inRange⟩ hs
  · exact K.quiet ⟨requestAbort_calm (.refl s), requestAbort_inRange⟩ hs
  · exact K.leavesHalted hs
  · exact K.quiet ⟨setModeResult_calm (.refl s), setModeResult_inRange⟩ hs

/-- 11 R171: a CMD write by its code. -/
theorem globalCommand (code : Byte) (hs : I s) : I (globalCommand code stampCleared s) := by
  unfold Machine.globalCommand
  split_ifs
  · exact K.switchOn hs
  · exact K.switchOff hs
  · exact K.quiet ⟨formatBegins_calm (.refl s), formatBegins_inRange⟩ hs
  · exact K.quiet ⟨stampCleared_calm (.refl s), stampCleared_inRange⟩ hs
  · exact K.quiet ⟨setCommand_calm (.refl s), setCommand_inRange⟩ hs

/-- 11 Table 11-1: a write to an offset with a row of its own. -/
theorem writeOwnRow {o : Nat} {v : Byte} (hc : o = 0x01 → 0x60 ≤ v.toNat → v.toNat ≤ 0x77 → OpensRecord c) (hs : I s) :
    I (writeOwnRow o v s) := by
  unfold Machine.writeOwnRow
  split
  · exact K.quiet ⟨pushData_calm (.refl s), pushData_inRange⟩ hs
  · exact K.pushControl (hc rfl) hs
  · exact K.quiet ⟨popControl_calm (.refl s), popControl_inRange⟩ hs
  · exact K.quiet ⟨queueControl_calm (.refl s), queueControl_inRange⟩ hs
  · exact K.modeRequest v hs
  · exact K.quiet ⟨writeEven_calm (.refl s), writeEven_inRange⟩ hs
  · exact K.quiet ⟨acknowledge_calm (.refl s), acknowledge_inRange⟩ hs
  · exact K.quiet ⟨linkControl_calm (.refl s), linkControl_inRange⟩ hs
  · exact K.globalCommand v hs
  · exact hs

/-- 11 Table 11-1: a read of an offset with a row of its own. -/
theorem readOwnRow (o : Nat) (hs : I s) : I (readOwnRow o s) := by
  unfold Machine.readOwnRow
  split
  · exact K.settle (K.quiet ⟨readData_calm (.refl s), readData_inRange⟩ hs)
  · exact K.quiet ⟨readPstat_calm (.refl s), readPstat_inRange⟩ hs
  · exact K.quiet (.access (fun h => readEvid_calm h) readEvid_inRange) hs
  · exact K.quiet (.access (fun h => readEvq_calm h) readEvq_inRange) hs
  · exact K.quiet ⟨readLstat_calm (.refl s), readLstat_inRange⟩ hs
  · exact hs

theorem registerReadOther (o : Fin 32) (hs : I s) : Ends I (execRegisterReadOther o s) := by
  unfold execRegisterReadOther
  split
  · exact K.own hs (drive_access_quiet _ s)
  · exact .next (K.readOwnRow _ hs)

theorem accessCompletion {reply : ArrayReply} (hc : c = .accessCompletion reply) (hs : I s) :
    Ends I (execAccessCompletion reply s) := by
  unfold execAccessCompletion
  split
  · exact .next hs
  · next hop =>
    split
    · exact .next (K.settle (K.access hc hop hs))
    · exact .fault

theorem reissueCompletion {reply : ArrayReply} (hc : c = .reissueCompletion reply) (hs : I s) :
    Ends I (execReissueCompletion reply s) := by
  unfold execReissueCompletion
  split
  · exact .next hs
  · next hop =>
    split
    · exact .next (K.settle (K.reissue hc hop hs))
    · exact .fault

end Keeps

/-- A command keeps what its effects and the reactions keep. -/
theorem exec_ends (K : Keeps I c) (hs : I s) : Ends I (exec c s) := by
  cases c with
  | reset => exact .next (K.reset rfl hs)
  | dataWrite b => exact K.event hs (.access (fun h => pushData_calm h) pushData_inRange)
  | dataRead => exact K.event hs ⟨readData_calm (.refl s), readData_inRange⟩
  | pstatRead => exact K.own hs ⟨readPstat_calm (.refl s), readPstat_inRange⟩
  | lstatRead => exact K.own hs ⟨readLstat_calm (.refl s), readLstat_inRange⟩
  | pctlOpen q => exact .next (K.settle (K.opens q (.inl ⟨q, rfl⟩) (K.windowAccess hs)))
  | pctlRepeat n => exact K.own hs (.access (fun h => pushRepeat_calm h) pushRepeat_inRange)
  | pctlEnd => exact K.event hs (.access (fun h => pushEnd_calm h) pushEnd_inRange)
  | pctlCancel => exact K.event hs (.access (fun h => pushCancelled_calm h) pushCancelled_inRange)
  | pctlUndefinedCode code =>
    exact .ite (K.quiet (.access (fun h => pushProtocol_calm h) pushProtocol_inRange) hs)
      (K.settle (K.pushControl (fun hlo hhi => .inr ⟨code, .inl rfl, hlo, hhi⟩) (K.windowAccess hs)))
  | octlSelect q => exact K.event hs (.access (fun h => popSelect_calm h) popSelect_inRange)
  | octlRelease => exact K.event hs (.access (fun h => popRelease_calm h) popRelease_inRange)
  | octlReturn => exact K.event hs (.access (fun h => popReturn_calm h) popReturn_inRange)
  | octlRewind => exact K.event hs (.access (fun h => popRewind_calm h) popRewind_inRange)
  | octlUndefinedCode code =>
    exact .ite (K.quiet (.access (fun h => setPopResult_calm h) setPopResult_inRange) hs)
      (K.settle (K.quiet (.access (fun h => popControl_calm h) popControl_inRange) hs))
  | qcmdFetch =>
    exact K.own hs (.access (fun h => pageCommand_calm (fun _ _ h => fetchPage_calm h) h)
      (pageCommand_inRange (fun _ _ h => fetchPage_inRange h)))
  | qcmdStore =>
    exact K.own hs (.access (fun h => pageCommand_calm (fun _ _ h => storePage_calm h) h)
      (pageCommand_inRange (fun _ _ h => storePage_inRange h)))
  | qcmdEnable =>
    exact K.event hs (.access (fun h => queueCommand_calm (fun _ _ h => enableQueue_calm h) h)
      (queueCommand_inRange (fun _ _ h => enableQueue_inRange h)))
  | qcmdDisable =>
    exact K.own hs (.access (fun h => queueCommand_calm (fun _ _ h => disableQueue_calm h) h)
      (queueCommand_inRange (fun _ _ h => disableQueue_inRange h)))
  | qcmdHold =>
    exact K.event hs (.access (fun h => queueCommand_calm (fun _ _ h => holdQueue_calm h) h)
      (queueCommand_inRange (fun _ _ h => holdQueue_inRange h)))
  | qcmdResume =>
    exact K.event hs (.access (fun h => queueCommand_calm (fun _ _ h => resumeQueue_calm h) h)
      (queueCommand_inRange (fun _ _ h => resumeQueue_inRange h)))
  | qcmdFlush =>
    exact K.event hs (.access (fun h => queueCommand_calm (fun _ _ h => flushQueue_calm h) h)
      (queueCommand_inRange (fun _ _ h => flushQueue_inRange h)))
  | qcmdClearfault =>
    exact K.own hs (.access (fun h => queueCommand_calm (fun _ _ h => clearFault_calm h) h)
      (queueCommand_inRange (fun _ _ h => clearFault_inRange h)))
  | qcmdUndefinedCode code =>
    have hquiet : Quiet s (queueControl code (windowAccess s)) :=
      .access (fun h => queueControl_calm h) queueControl_inRange
    exact .ite (K.quiet hquiet hs) (K.settle (K.quiet hquiet hs))
  | modeRun => exact K.own hs (.access (fun h => requestRun_calm h) requestRun_inRange)
  | modeStop => exact K.event hs (.access (fun h => requestStop_calm h) requestStop_inRange)
  | modeAbort => exact K.event hs (.access (fun h => requestAbort_calm h) requestAbort_inRange)
  | modeConfig => exact .next (K.leavesHalted (K.windowAccess hs))
  | modeUndefinedCode code =>
    exact .ite (K.quiet (.access (fun h => setModeResult_calm h) setModeResult_inRange) hs)
      (K.settle (K.modeRequest code (K.windowAccess hs)))
  | evidRead => exact K.own hs (.access (fun h => readEvid_calm h) readEvid_inRange)
  | evqRead => exact K.own hs (.access (fun h => readEvq_calm h) readEvq_inRange)
  | evenWrite v => exact K.own hs (.access (fun h => writeEven_calm h) writeEven_inRange)
  | evack code => exact K.own hs (.access (fun h => acknowledge_calm h) acknowledge_inRange)
  | lcmdStart => exact K.event hs (.access (fun h => linkStart_calm h) linkStart_inRange)
  | lcmdStop => exact K.event hs (.access (fun h => linkStop_calm h) linkStop_inRange)
  | lcmdUndefinedCode code =>
    exact .ite (K.quiet (.access (fun h => setLinkResult_calm h) setLinkResult_inRange) hs)
      (K.settle (K.quiet (.access (fun h => linkControl_calm h) linkControl_inRange) hs))
  | arrayOn => exact .next (K.switchOn (K.windowAccess hs))
  | arrayOff => exact .next (K.switchOff (K.windowAccess hs))
  | format => exact K.event hs (.access (fun h => formatBegins_calm h) formatBegins_inRange)
  | stampClear => exact K.own hs (.access (fun h => stampCleared_calm h) stampCleared_inRange)
  | cmdUndefinedCode code =>
    exact .ite (K.quiet (.access (fun h => setCommand_calm h) setCommand_inRange) hs)
      (K.settle (K.globalCommand code (K.windowAccess hs)))
  | registerWriteOther o v =>
    have hopens : o.val = 0x01 → 0x60 ≤ v.toNat → v.toNat ≤ 0x77 → OpensRecord (.registerWriteOther o v) :=
      fun ho hlo hhi => .inr ⟨v, .inr (congrArg (Instr.registerWriteOther · v) (Fin.ext ho)), hlo, hhi⟩
    exact .ite (K.settle (K.writeOwnRow hopens (K.windowAccess hs))) (K.quiet (setRegister_quiet o.val v s) hs)
  | alert => exact .next (K.settle (K.alert hs))
  | lreqRise => exact K.event hs ⟨lreqRise_calm (.refl s), lreqRise_inRange⟩
  | lreqFall => exact K.event hs ⟨lreqFall_calm (.refl s), lreqFall_inRange⟩
  | peerAccept => exact K.event hs ⟨peerAccept_calm (.refl s), peerAccept_inRange⟩
  | peerReject => exact K.event hs ⟨peerReject_calm (.refl s), peerReject_inRange⟩
  | lackRise => exact K.event hs ⟨lackRise_calm (.refl s), lackRise_inRange⟩
  | lackFall => exact K.event hs ⟨lackFall_calm (.refl s), lackFall_inRange⟩
  | linkBegin | inboundDataByte | inboundEnd | inboundAbort | strayByte =>
    exact K.event hs ⟨lstbRise_calm (.refl s), lstbRise_inRange⟩
  | lstbFall => exact K.event hs ⟨lstbFall_calm (.refl s), lstbFall_inRange⟩
  | linkTimeout => exact K.event hs ⟨timedOut_calm (.refl s), timedOut_inRange⟩
  | idleGrantExpiry => exact K.event hs ⟨idleGrantOver_calm (.refl s), idleGrantOver_inRange⟩
  | stampTick => exact K.own hs ⟨stampTicked_calm (.refl s), stampTicked_inRange⟩
  | refreshTimerExpiry => exact .next (K.settle (K.expiry hs))
  | confirmation => exact .next (K.settle (K.confirmation hs))
  | accessCompletion reply => exact K.accessCompletion rfl hs
  | refreshCompletion => exact .next (K.settle (K.refreshDone hs))
  | startCloseAllDone => exact .next (K.startClosed hs)
  | startRefreshDone => exact .next (K.settle (K.startRefreshed hs))
  | recoveryCloseAllDone => exact .next (K.settle (K.recoveryClosed hs))
  | reissueCompletion reply => exact K.reissueCompletion rfl hs
  | registerReadOther o => exact K.registerReadOther o hs

theorem exec_keeps {t : State} (K : Keeps I c) (hs : I s) (h : exec c s = .next t) : I t := exec_ends K hs t h

end

/-- A step keeps what every command, the taking of a command from the queue and a reference clock keep. -/
theorem step_keeps {I : State → Prop} {s t : State} (K : ∀ c, Keeps I c)
    (hpending : ∀ {s} r, I s → I (s.withPending r)) (hclock : ∀ {s}, I s → I (clock s)) (hs : I s)
    (h : step s = .next t) : I t := by
  obtain ⟨c, u, hu, hexec⟩ | rfl := step_next h
  · refine exec_keeps (K c) ?_ hexec
    obtain rfl | ⟨r, rfl⟩ := hu
    · exact hs
    · exact hpending r hs
  · exact hclock hs

end Sys2Proof.Machine
end

section
/-! The invariants of a step: the waiting commands and the array (07, 08), the canonical array (01), the mode and the enables
(09, 10), LOST and REPEATED (04), the ranges (02, 04) and the legal sequencer (07, 08). -/

namespace Sys2Proof.Machine

/-! ### The operation in progress (07 R127) -/

theorem accessInProgress_eq_some {x : Seq} {c : Client} {r : Request} (h : accessInProgress x = some (c, r)) :
    (∃ n, x.op = some (.access c, n)) ∧ x.slots.get c = .issued r := by
  unfold accessInProgress at h
  split at h
  · next hop =>
    split at h
    · next hslot =>
      cases h
      exact ⟨⟨_, hop⟩, hslot⟩
    all_goals cases h
  · cases h

theorem reissueInProgress_eq_some {x : Seq} {e : Entry} (h : reissueInProgress x = some e) :
    ∃ n, x.op = some (.reissue e, n) := by
  unfold reissueInProgress at h
  split at h
  · next hop =>
    cases h
    exact ⟨_, hop⟩
  · cases h

/-! ### Waiting commands, array, mode and enables -/

theorem reset_evenLegal : evenLegal Events.reset := by
  unfold evenLegal Events.reset
  decide

theorem resetPart_steady (s : State) : Steady s (resetPart s) := ⟨rfl, fun _ => reset_evenLegal, fun _ _ => rfl, .inr rfl⟩

/-- What every steady effect keeps, and the storing of an access too, every command keeps. -/
theorem keeps_of_steady {I : State → Prop} {c : Instr} (hsteady : ∀ {s t}, Steady s t → I s → I t)
    (hstore : ∀ {s} r reply, (c = .accessCompletion reply ∨ c = .reissueCompletion reply) → I s →
      I (s.withArray (storeAccess s.array r (movedBytes s.array r reply)))) : Keeps I c where
  settle := hsteady (Calm.refl _).steady.settle
  quiet h := hsteady h.calm.steady
  reset _ := hsteady (resetPart_steady _)
  opens q _ := hsteady (pushOpen_steady q _)
  leavesHalted := hsteady (requestConfig_steady _)
  switchOn := hsteady (arraySwitchOn_steady _)
  switchOff := hsteady (arraySwitchOff_steady _)
  alert := hsteady (alertRaised_steady _)
  expiry := hsteady (refreshExpired_steady _)
  confirmation := hsteady (confirmFront_steady _)
  refreshDone {s} := hsteady (completions_steady s).1
  startClosed {s} := hsteady (completions_steady s).2.1
  startRefreshed {s} := hsteady (completions_steady s).2.2.1
  recoveryClosed {s} := hsteady (completions_steady s).2.2.2
  access {s reply k r} hc _ hs := hsteady (accessDone_steady k r reply s) (hstore r reply (.inl hc) hs)
  reissue {s reply e} hc _ hs := by
    obtain ⟨k, r, _, h⟩ | ⟨_, h⟩ := reissueDone_steady e reply s
    · exact hsteady h (hstore r reply (.inr hc) hs)
    · exact hsteady h hs

/-- A command that is no completion of an access or a re-issue is steady as a whole. -/
theorem exec_steady {c : Instr} {s t : State} (h : exec c s = .next t)
    (hc : ∀ reply, c ≠ .accessCompletion reply ∧ c ≠ .reissueCompletion reply) : Steady s t :=
  exec_keeps (keeps_of_steady (I := Steady s) (fun hstep hs => hs.trans hstep)
    (fun _ reply hop _ => absurd hop (not_or.mpr (hc reply)))) (Calm.refl s).steady h

theorem exec_pending {c : Instr} {s t : State} (h : exec c s = .next t) : t.pending = s.pending :=
  exec_keeps (I := fun u => u.pending = s.pending)
    (keeps_of_steady (fun hstep hs => hstep.pending.trans hs) (fun _ _ _ hs => hs)) rfl h

/-- Settles O56: every effect but the storing of an access leaves the array or drops what is known of it. -/
theorem queueAndArrayChangeOnlyAsNamed : Obligations.QueueAndArrayChangeOnlyAsNamed := by
  intro c s t h
  refine ⟨exec_pending h, ?_⟩
  by_cases haccess : ∃ r, c = .accessCompletion r
  · exact .inr (.inr (.inl haccess))
  by_cases hreissue : ∃ r, c = .reissueCompletion r
  · exact .inr (.inr (.inr hreissue))
  have hsteady : Steady s t :=
    exec_steady h fun r => ⟨fun e => haccess ⟨r, e⟩, fun e => hreissue ⟨r, e⟩⟩
  exact hsteady.array.imp_right .inl

theorem storeAccess_wf {m : ArrayMem} (h : Memory.wf m.cells = true) (r : Request) (bs : List Byte) :
    Memory.wf (storeAccess m r bs).cells = true := by
  unfold storeAccess
  split
  · exact h
  · exact arrayPut_wf bs _ h

/-- Settles O57: the array is written by accesses alone, byte by byte, and a write keeps the addresses rising. -/
theorem memoryStaysCanonical : Obligations.MemoryStaysCanonical := by
  intro s t hs h
  refine step_keeps (I := fun u => Memory.wf u.array.cells = true) (fun c => keeps_of_steady ?steady ?store)
    (fun _ hu => hu) (fun hu => hu) hs h
  case steady =>
    intro u v hstep hu
    obtain e | e := hstep.array
    · rwa [e]
    · rw [e]; rfl
  case store => exact fun r reply _ hu => storeAccess_wf hu r _

/-! ### The sequencer -/

theorem clock_legal {s : State} (h : SeqLegal s.seq) : SeqLegal (clock s).seq := by
  have hop : (clock s).seq.op.map (·.1) = s.seq.op.map (·.1) := by
    show (s.seq.op.map _).map _ = _
    cases s.seq.op <;> rfl
  have hlist : (clock s).seq.unconfirmed = s.seq.unconfirmed
      ∨ (clock s).seq.unconfirmed = s.seq.unconfirmed.map Entry.clocked := by
    show windowsClocked s.seq = _ ∨ windowsClocked s.seq = _
    unfold windowsClocked
    split
    · exact .inl rfl
    · exact .inr rfl
  have hlength : (clock s).seq.unconfirmed.length = s.seq.unconfirmed.length := by
    obtain e | e := hlist <;> simp [e]
  have hreplays : ∀ e ∈ (clock s).seq.unconfirmed, ∃ f ∈ s.seq.unconfirmed, f.replays = e.replays := by
    intro e he
    obtain hl | hl := hlist
    · exact ⟨e, hl ▸ he, rfl⟩
    · obtain ⟨f, hf, rfl⟩ := List.mem_map.mp (hl ▸ he)
      exact ⟨f, hf, rfl⟩
  refine { fits := ?fits, debt := h.debt, count := ?count, replays := ?replays, replayOnly := h.replayOnly
           offEmpty := ?off, pendingOnly := ?pending }
  case fits => rw [hop]; exact h.fits
  case count => rw [hop, hlength]; exact h.count
  case replays =>
    intro e he
    rw [hop, List.append_assoc, List.mem_append] at he
    obtain he | he := he
    · obtain ⟨f, hf, hr⟩ := hreplays e he
      exact hr ▸ h.replays f (List.mem_append_left _ (List.mem_append_left _ hf))
    · exact h.replays e (by rw [List.append_assoc]; exact List.mem_append_right _ he)
  case off => exact fun hoff => List.length_eq_zero_iff.mp (hlength.trans (by rw [h.offEmpty hoff]; rfl))
  case pending =>
    intro ha hnone
    have hmap : s.seq.op.map (·.1) = none := by rw [← hop, hnone]; rfl
    exact h.pendingOnly ha (Option.map_eq_none_iff.mp hmap)

theorem reset_legal : SeqLegal Seq.reset where
  fits := rfl
  debt := Nat.zero_le _
  count := Nat.zero_le _
  replays := nofun
  replayOnly _ := rfl
  offEmpty _ := rfl
  pendingOnly := nofun

theorem keeps_seqLegal (c : Instr) : Keeps (fun u => SeqLegal u.seq) c where
  settle := settle_legal
  quiet h hs := calm_legal hs h.calm
  reset _ _ := reset_legal
  opens _ _ := pushOpen_legal
  leavesHalted := requestConfig_legal
  switchOn := arraySwitchOn_legal
  switchOff := arraySwitchOff_legal
  alert := alertRaised_legal
  expiry := refreshExpired_legal
  confirmation := confirmFront_legal
  refreshDone := refreshDone_legal
  startClosed := startClosed_legal
  startRefreshed := startRefreshed_legal
  recoveryClosed := recoveryClosed_legal
  access _ hop hs := by
    obtain ⟨⟨_, hop⟩, _⟩ := accessInProgress_eq_some hop
    exact accessDone_legal hs hop
  reissue _ hop hs := by
    obtain ⟨_, hop⟩ := reissueInProgress_eq_some hop
    exact reissueDone_legal hs hop

/-- Settles O58: every command's effect, the reactions and the clock keep the sequencer legal. -/
theorem sequencerStaysLegal : Obligations.SequencerStaysLegal :=
  fun _ _ hs h => step_keeps (I := fun u => SeqLegal u.seq) keeps_seqLegal (fun _ hu => hu) clock_legal hs h

/-! ### The ranges -/

theorem reset_queue (q : QId) : State.reset.queue q = Queue.reset := Vector.getElem_replicate ..

theorem resetPart_queue (s : State) (q : QId) : (resetPart s).queue q = Queue.reset := reset_queue q

theorem queueReset_inRange : QueueInRange Queue.reset := by
  unfold QueueInRange
  decide

theorem resetPart_inRange (s : State) : InRange (resetPart s) where
  queues q := resetPart_queue s q ▸ queueReset_inRange
  push := ⟨Nat.zero_le _, Nat.zero_le _⟩

theorem keeps_inRange (c : Instr) : Keeps InRange c where
  settle := settle_inRange
  quiet h := h.range
  reset _ _ := resetPart_inRange _
  opens _ _ := pushOpen_inRange
  leavesHalted := requestConfig_inRange
  switchOn := arraySwitchOn_inRange
  switchOff := arraySwitchOff_inRange
  alert := alertRaised_inRange
  expiry := refreshExpired_inRange
  confirmation := confirmFront_inRange
  refreshDone := refreshDone_inRange
  startClosed := startClosed_inRange
  startRefreshed := startRefreshed_inRange
  recoveryClosed := recoveryClosed_inRange
  access _ _ := accessDone_inRange
  reissue _ _ := reissueDone_inRange

theorem clock_inRange {s : State} (h : InRange s) : InRange (clock s) := ⟨h.queues, h.push⟩

/-- Settles O59: the ranges operation by operation; the mode and the enables by what every effect leaves of them. -/
theorem countsModeAndEnablesStayLegal : Obligations.CountsModeAndEnablesStayLegal := by
  refine ⟨fun s t hs h => step_keeps keeps_inRange (fun _ => withPending_inRange) clock_inRange hs h,
    fun s t hmode heven h => ?_⟩
  exact step_keeps (I := fun u => stopLegal u.modeCtl ∧ evenLegal u.events)
    (fun c => keeps_of_steady (fun hstep hu => ⟨hstep.mode hu.1, hstep.enables hu.2⟩) (fun _ _ _ hu => hu))
    (fun _ hu => hu) (fun hu => hu) ⟨hmode, heven⟩ h

/-- Settles O60: each invariant at the reset values of its block. -/
theorem resetMeetsInvariants : Obligations.ResetMeetsInvariants :=
  ⟨reset_memory_wf, reset_legal, ⟨fun q => reset_queue q ▸ queueReset_inRange, ⟨Nat.zero_le _, Nat.zero_le _⟩⟩,
    fun _ => rfl, reset_evenLegal⟩

/-! ### LOST and REPEATED (04 R65, R66) -/

theorem marksStay.refl (x : Push) : marksStay x x := ⟨id, id⟩

theorem marksStay.trans {x y z : Push} (h : marksStay x y) (k : marksStay y z) : marksStay x z :=
  ⟨k.1 ∘ h.1, k.2 ∘ h.2⟩

theorem marksStay_of_pushKept {x y : Push} (h : pushKept y = pushKept x) : marksStay x y := by
  obtain ⟨-, hlost, hrepeated⟩ := by simpa only [pushKept, Prod.mk.injEq] using h
  exact ⟨hlost.trans, hrepeated.trans⟩

theorem pushArrayFault_pushKept (s : State) : pushKept (pushArrayFault s).push = pushKept s.push := by
  unfold pushArrayFault
  split <;> rfl

/-- 04 R79: the array fault at the Push Engine looks at the push context alone. -/
theorem pushArrayFault_push_congr {s t : State} (h : t.push = s.push) :
    (pushArrayFault t).push = (pushArrayFault s).push := by
  unfold pushArrayFault pushIdle
  rw [h]
  split
  · exact h
  all_goals rw [withPush_push, withPush_push]

theorem arrayFault_push (s : State) : (arrayFault s).push = (pushArrayFault s).push := by
  unfold arrayFault
  rw [popArrayFault_eq]
  refine pushArrayFault_push_congr ?_
  rw [queuesArrayFault_eq, poolArrayFault_eq]
  rfl

theorem arrayFault_pushKept (s : State) : pushKept (arrayFault s).push = pushKept s.push := by
  rw [arrayFault_push, pushArrayFault_pushKept]

theorem takeUp_marks (s : State) : marksStay s.push (takeUp s).push := by
  unfold takeUp
  split
  · exact marksStay_of_pushKept (arrayFault_pushKept s)
  · exact .refl _

theorem afterCompletion_marks {f : Seq → Seq} {s t : State} (h : t.push = s.push) :
    marksStay s.push (afterCompletion f t).push := by
  rw [← h]
  unfold afterCompletion
  split
  · exact takeUp_marks t
  · exact .refl _

theorem alertRaised_marks (s : State) : marksStay s.push (alertRaised s).push := by
  unfold alertRaised
  split
  case h_3 => split <;> exact .refl _
  case h_4 =>
    split
    · exact .refl _
    · exact takeUp_marks (s.withSeq s.seq.counted)
  all_goals exact .refl _

theorem refreshExpired_marks (s : State) : marksStay s.push (refreshExpired s).push := by
  unfold refreshExpired
  split
  · exact .refl _
  · dsimp only
    split <;> exact .refl _

theorem confirmFront_marks (s : State) : marksStay s.push (confirmFront s).push := by
  unfold confirmFront
  split
  · exact .refl _
  · next e rest _ =>
    have hbefore (c : Client) :
        ((s.withSeq { s.seq with unconfirmed := rest }).setSlot c .empty).push = s.push := rfl
    dsimp only
    split
    · exact .refl _
    · next c r _ =>
      rw [← hbefore c]
      exact (deliver_calm (.refl _)).marks

theorem arraySwitchOn_marks (s : State) : marksStay s.push (arraySwitchOn s).push := by
  unfold arraySwitchOn
  split_ifs <;> exact .refl _

theorem arraySwitchOff_marks (s : State) : marksStay s.push (arraySwitchOff s).push := by
  unfold arraySwitchOff
  split
  · exact .refl _
  · have hcalm := setCommand_calm (r := .ok) (clear_calm (c := .refreshOverrun) (reinitQueues_calm (poolReset_calm
      (poolLeaves_calm (x := .unformatted) (.refl (s.withSeq s.seq.switchedOff))))))
    exact hcalm.marks

theorem requestConfig_marks (s : State) : marksStay s.push (requestConfig s).push := by
  unfold requestConfig
  split <;> exact .refl _

theorem refreshDone_marks (s : State) : marksStay s.push (refreshDone s).push := by
  unfold refreshDone
  split
  · exact afterCompletion_marks rfl
  · exact .refl _

theorem startClosed_marks (s : State) : marksStay s.push (startClosed s).push := by
  unfold startClosed
  split <;> exact .refl _

theorem startRefreshed_marks (s : State) : marksStay s.push (startRefreshed s).push := by
  unfold startRefreshed
  split
  · exact afterCompletion_marks rfl
  · exact .refl _

theorem recoveryClosed_marks (s : State) : marksStay s.push (recoveryClosed s).push := by
  unfold recoveryClosed
  split
  · exact afterCompletion_marks rfl
  · exact .refl _

theorem reissueDone_marks (e : Entry) (reply : ArrayReply) (s : State) :
    marksStay s.push (reissueDone e reply s).push := by
  unfold reissueDone
  dsimp only
  split <;> exact afterCompletion_marks rfl

/-- LOST and REPEATED are cleared by RESET and by an OPEN alone. -/
theorem keeps_marks {s : State} {c : Instr} (hreset : c ≠ .reset) (hopen : ¬OpensRecord c) :
    Keeps (fun u => marksStay s.push u.push) c where
  settle hs := hs.trans (marksStay_of_pushKept (settle_reaction _).push)
  quiet h hs := hs.trans h.calm.marks
  reset h := absurd h hreset
  opens _ h := absurd h hopen
  leavesHalted hs := hs.trans (requestConfig_marks _)
  switchOn hs := hs.trans (arraySwitchOn_marks _)
  switchOff hs := hs.trans (arraySwitchOff_marks _)
  alert hs := hs.trans (alertRaised_marks _)
  expiry hs := hs.trans (refreshExpired_marks _)
  confirmation hs := hs.trans (confirmFront_marks _)
  refreshDone hs := hs.trans (refreshDone_marks _)
  startClosed hs := hs.trans (startClosed_marks _)
  startRefreshed hs := hs.trans (startRefreshed_marks _)
  recoveryClosed hs := hs.trans (recoveryClosed_marks _)
  access _ _ hs := hs.trans (afterCompletion_marks rfl)
  reissue _ _ hs := hs.trans (reissueDone_marks _ _ _)

/-- Settles O8: by the hypotheses the command is neither RESET nor an OPEN. -/
theorem lostAndRepeatedStayUntilOpen : Obligations.LostAndRepeatedStayUntilOpen := by
  intro c s t h hreset hopen hcode
  have hnot : ¬OpensRecord c := by
    rintro (⟨q, hq⟩ | ⟨code, hc, hlo, hhi⟩)
    · exact hopen q hq
    · have := hcode code hc
      omega
  exact exec_keeps (keeps_marks hreset hnot) (marksStay.refl s.push) h

end Sys2Proof.Machine
end

section
/-! The frames of the engines' commands and of the peer's lines: each is an update of one context and then reactions, so what
`Reaction` names stands (04 R60 to R76, 05 R83 to R93, 06 R99 to R120). -/

namespace Sys2Proof.Machine

theorem settle_reacts {s t : State} (h : Reaction s t) : Reaction s (settle t) := settleN_reacts _ h

/-- 10 R158: a raised cause, as a reaction on the state before it. -/
theorem raise_reaction (c : GlobalCause) (s : State) : Reaction s (raise c s) := raise_reacts (.refl s)

/-! ### The push commands (04): an update of the push context, then reactions -/

/-- The effect updates the push context and reacts. -/
def PushEffect (s t : State) : Prop := ∃ x, Reaction (s.withPush x) t

theorem PushEffect.refused (c : GlobalCause) (s : State) : PushEffect s (raise c s) :=
  ⟨s.push, raise_reaction c s⟩

theorem PushEffect.update (s : State) (x : Push) : PushEffect s (s.withPush x) := ⟨x, .refl _⟩

theorem PushEffect.updateRaise (c : GlobalCause) (s : State) (x : Push) : PushEffect s (raise c (s.withPush x)) :=
  ⟨x, raise_reaction c _⟩

theorem PushEffect.settle {s t : State} (h : PushEffect s t) : PushEffect s (settle t) :=
  h.imp fun _ => settle_reacts

theorem pushPayload_effect (b : Byte) (s : State) : PushEffect s (pushPayload b s) := by
  unfold pushPayload
  split_ifs
  · exact .updateRaise ..
  · exact .updateRaise ..
  · exact .update ..

theorem pushData_effect (b : Byte) (s : State) : PushEffect s (pushData b s) := by
  unfold pushData
  split
  case h_1 => exact .update ..
  case h_2 => exact pushPayload_effect b s
  all_goals exact .refused ..

theorem pushOpen_effect (q : QId) (s : State) : PushEffect s (pushOpen q s) := by
  unfold pushOpen
  split
  case h_1 =>
    split
    · exact ⟨_, makeClaim_reacts (.refl _)⟩
    · exact .updateRaise ..
  all_goals exact .refused ..

theorem pushRepeat_effect (n : Nat) (s : State) : PushEffect s (pushRepeat n s) := by
  unfold pushRepeat
  split
  · exact .update ..
  · exact .refused ..

theorem pushEnd_effect (s : State) : PushEffect s (pushEnd s) := by
  unfold pushEnd
  split
  · exact .update ..
  · exact .refused ..

theorem pushCancelled_effect (s : State) : PushEffect s (pushCancelled s) := by
  unfold pushCancelled
  split
  case h_1 | h_2 => exact .update ..
  all_goals exact .refused ..

theorem pushControl_effect (code : Byte) (s : State) : PushEffect s (pushControl code s) := by
  unfold pushControl
  split_ifs
  · exact pushRepeat_effect ..
  · exact pushEnd_effect s
  · exact pushCancelled_effect s
  · exact pushOpen_effect ..
  · exact .refused ..

theorem push_command_effect {c : Instr} {s t : State}
    (hc : (∃ b, c = .dataWrite b) ∨ (∃ q, c = .pctlOpen q) ∨ (∃ n, c = .pctlRepeat n) ∨ c = .pctlEnd ∨ c = .pctlCancel
      ∨ ∃ code, c = .pctlUndefinedCode code) (h : exec c s = .next t) : PushEffect (windowAccess s) t := by
  obtain ⟨b, rfl⟩ | ⟨q, rfl⟩ | ⟨n, rfl⟩ | rfl | rfl | ⟨code, rfl⟩ := hc
  · cases h; exact (pushData_effect b _).settle
  · cases h; exact (pushOpen_effect q _).settle
  · cases h; exact pushRepeat_effect _ _
  · cases h; exact (pushEnd_effect _).settle
  · cases h; exact (pushCancelled_effect _).settle
  · have hends : Ends (PushEffect (windowAccess s)) (exec (.pctlUndefinedCode code) s) :=
      .ite (PushEffect.refused ..) (pushControl_effect code _).settle
    exact hends t h

/-! ### The pop commands (05): an update of the pop context that keeps the presented header, then reactions -/

/-- The effect updates the pop context, keeps the presented header and reacts. -/
def PopEffect (s t : State) : Prop := ∃ x : Pop, x.r.hdr = s.pop.r.hdr ∧ Reaction (s.withPop x) t

theorem PopEffect.update {s : State} {x : Pop} (h : x.r.hdr = s.pop.r.hdr) : PopEffect s (s.withPop x) :=
  ⟨x, h, .refl _⟩

theorem PopEffect.raised (c : GlobalCause) (s : State) : PopEffect s (raise c s) := ⟨s.pop, rfl, raise_reaction c s⟩

theorem PopEffect.settle {s t : State} (h : PopEffect s t) : PopEffect s (settle t) :=
  h.imp fun _ hx => ⟨hx.1, settle_reacts hx.2⟩

theorem disownPins_reacts {s t : State} {q : QId} (h : Reaction s t) : Reaction s (disownPins q t) :=
  setQueue_reacts h rfl

theorem popReturned_effect (s : State) : PopEffect s (popReturned s) := by
  unfold popReturned
  dsimp only
  split
  · exact .update rfl
  · exact ⟨{ s.pop with
        state := .idle, r := { s.pop.r.released with unwanted := readerUnwanted .pop s },
        pinAns := none, last := .returned }, rfl, makeClaim_reacts (disownPins_reacts (.refl _))⟩

theorem popSelect_effect (q : QId) (s : State) : PopEffect s (popSelect q s) := by
  unfold popSelect
  split
  case h_1 =>
    split
    · exact ⟨s.pop.selecting q, rfl, makeClaim_reacts (.refl _)⟩
    · exact .update rfl
  all_goals exact .update rfl

theorem popRelease_effect (s : State) : PopEffect s (popRelease s) := by
  unfold popRelease
  split <;> exact .update rfl

theorem popReturn_effect (s : State) : PopEffect s (popReturn s) := by
  unfold popReturn
  split
  case h_1 | h_2 => exact popReturned_effect s
  all_goals exact .update rfl

theorem popRewind_effect (s : State) : PopEffect s (popRewind s) := by
  unfold popRewind
  split <;> exact .update rfl

theorem popControl_effect (code : Byte) (s : State) : PopEffect s (popControl code s) := by
  unfold popControl
  split_ifs
  · exact popRelease_effect s
  · exact popReturn_effect s
  · exact popRewind_effect s
  · exact popSelect_effect ..
  · exact .update rfl

/-- 05 R89: a read of DATA raises a cause, takes a byte from the pop FIFO or leaves the state. -/
theorem popRead_effect (s : State) : PopEffect s (popRead s) := by
  unfold popRead
  split
  case h_1 =>
    split
    · exact .raised ..
    · split
      · exact .raised ..
      · exact .update rfl
  case h_2 => exact .raised ..
  all_goals exact ⟨s.pop, rfl, .refl s⟩

/-- The state whose pop context a pop command updates: after the access, with the byte of a DATA read driven. -/
theorem pop_command_effect {c : Instr} {s t : State}
    (hc : c = .dataRead ∨ (∃ q, c = .octlSelect q) ∨ c = .octlRelease ∨ c = .octlReturn ∨ c = .octlRewind
      ∨ ∃ code, c = .octlUndefinedCode code) (h : exec c s = .next t) :
    ∃ b, PopEffect ((windowAccess s).withWindow { (windowAccess s).window with dataOut := b }) t := by
  obtain rfl | ⟨q, rfl⟩ | rfl | rfl | rfl | ⟨code, rfl⟩ := hc
  · cases h; exact ⟨_, (popRead_effect _).settle⟩
  · cases h; exact ⟨none, (popSelect_effect q _).settle⟩
  · cases h; exact ⟨none, (popRelease_effect _).settle⟩
  · cases h; exact ⟨none, (popReturn_effect _).settle⟩
  · cases h; exact ⟨none, (popRewind_effect _).settle⟩
  · have hends : Ends (PopEffect (windowAccess s)) (exec (.octlUndefinedCode code) s) :=
      .ite (PopEffect.update rfl) (popControl_effect code _).settle
    exact ⟨none, hends t h⟩

theorem Reaction.staging {s t : State} (h : Reaction s t) : stagingKept t.window = stagingKept s.window :=
  (congrArg stagingKept h.window).trans rfl

/-- Settles O9: beside the engine's own context, and the window's marks and byte, a push or a pop command only reacts. -/
theorem engineCommandsFrame : Obligations.EngineCommandsFrame := by
  refine ⟨fun c s t hc h => ?push, fun c s t hc h => ?pop⟩
  case push =>
    obtain ⟨x, hx⟩ := push_command_effect hc h
    exact ⟨hx.array, hx.pending, hx.stamp, hx.staging, hx.pop, hx.link, hx.events, hx.seq, hx.queues, hx.mode⟩
  case pop =>
    obtain ⟨b, x, hhdr, hx⟩ := pop_command_effect hc h
    have hpop : t.pop.r.hdr = x.r.hdr := congrArg Prod.fst hx.pop
    exact ⟨hx.array, hx.pending, hx.stamp, hx.staging, hx.push, hpop.trans hhdr, hx.link, hx.events, hx.seq,
      hx.queues, hx.mode⟩

/-! ### The peer's lines and the link timer (06) -/

/-- 06 R105: the link parameters. -/
def linkParameters (x : Link) : (Option QId × Option QId) × (Nat × Nat × Nat) :=
  ((x.drainQ, x.fillQ), (x.retryLimit, x.quota, x.timeout))

theorem linkParameters_of_linkKept {x y : Link} (h : linkKept x = linkKept y) :
    linkParameters x = linkParameters y ∧ x.sent = y.sent ∧ x.rejects = y.rejects := by
  obtain ⟨⟨hdrain, hfill, hretry, hquota⟩, htimeout, -, hsent, hrejects⟩ := by
    simpa only [linkKept, Prod.mk.injEq] using h
  exact ⟨by rw [linkParameters, linkParameters, hdrain, hfill, hretry, hquota, htimeout], hsent, hrejects⟩

section
variable {s t : State}

/-- 06 R101: a byte acknowledged. -/
theorem ackByte_reacts {k : ByteKind} {r : Bool} (h : Reaction s t) : Reaction s (t.withLink (ackByte k r t.link)) :=
  withLink_reacts h rfl

theorem strayByte_reacts (h : Reaction s t) : Reaction s (strayByte t) := raise_reacts (ackByte_reacts h)

theorem inboundBegin_reacts (h : Reaction s t) : Reaction s (inboundBegin t) := by
  unfold inboundBegin
  split
  · exact withLink_reacts h rfl
  · exact makeClaim_reacts (withLink_reacts h rfl)

theorem payloadByte_reacts {b : Byte} {n : Nat} (h : Reaction s t) : Reaction s (payloadByte b n t) := by
  unfold payloadByte
  dsimp only
  split_ifs
  · exact inboundReject_reacts (ackByte_reacts h)
  · exact withLink_reacts h rfl
  · exact withLink_reacts h rfl

theorem frameData_reacts {b : Byte} (h : Reaction s t) : Reaction s (frameData b t) := by
  unfold frameData
  dsimp only
  split
  · exact withLink_reacts h rfl
  · exact withLink_reacts h rfl
  · split
    · exact inboundReject_reacts (withLink_reacts h rfl)
    · exact withLink_reacts h rfl
  · exact payloadByte_reacts h

theorem receiveData_reacts {b : Byte} (h : Reaction s t) : Reaction s (receiveData b t) := by
  unfold receiveData
  split
  · exact frameData_reacts h
  all_goals exact ackByte_reacts h

theorem receiveEnd_reacts (h : Reaction s t) : Reaction s (receiveEnd t) := by
  have hheld : Reaction s (t.withLink { t.link with receive := .withheld .endByte }) := withLink_reacts h rfl
  unfold receiveEnd
  dsimp only
  split
  · split
    · exact withLink_reacts hheld rfl
    · exact inboundReject_reacts hheld
  all_goals exact hheld

theorem receiveAbort_reacts (h : Reaction s t) : Reaction s (receiveAbort t) := by
  have hheld : Reaction s (t.withLink { t.link with receive := .withheld .abortByte }) := withLink_reacts h rfl
  unfold receiveAbort
  dsimp only
  split
  case h_1 | h_2 => exact inboundCancel_reacts hheld
  all_goals exact hheld

theorem frameBegins_reacts (h : Reaction s t) : Reaction s (frameBegins t) := by
  unfold frameBegins
  dsimp only
  split
  · exact inboundBegin_reacts (withLink_reacts h rfl)
  · exact withLink_reacts h rfl

theorem tooLateByte_reacts {k : Bool} {b : Byte} (h : Reaction s t) : Reaction s (tooLateByte k b t) := by
  unfold tooLateByte
  split_ifs
  · exact ackByte_reacts h
  · exact ackByte_reacts h
  · exact ackByte_reacts h
  · exact strayByte_reacts h

theorem receivingByte_reacts {k : Bool} {b : Byte} (h : Reaction s t) : Reaction s (receivingByte k b t) := by
  unfold receivingByte
  split_ifs
  · exact receiveData_reacts h
  · exact receiveEnd_reacts h
  · exact receiveAbort_reacts h
  · exact strayByte_reacts h

theorem lstbRise_reacts {k : Bool} {b : Byte} (h : Reaction s t) : Reaction s (lstbRise k b t) := by
  have hstopped : Reaction s (t.withLink (stopTimer t.link)) := withLink_reacts h rfl
  unfold lstbRise
  dsimp only
  split_ifs
  · exact h
  · exact receivingByte_reacts hstopped
  · exact tooLateByte_reacts hstopped
  · exact frameBegins_reacts hstopped
  · exact strayByte_reacts hstopped

theorem linkKept_lstbFalls (k : ByteKind) (l : Link) : linkKept (lstbFalls k l) = linkKept l := by
  unfold lstbFalls
  dsimp only
  split <;> split <;> rfl

theorem lstbFall_reacts (h : Reaction s t) : Reaction s (lstbFall t) := by
  unfold lstbFall
  split
  · exact withLink_reacts h (linkKept_lstbFalls _ _)
  all_goals exact h

theorem outAbandon_reacts (h : Reaction s t) : Reaction s (outAbandon t) := by
  unfold outAbandon
  split
  case h_3 | h_4 =>
    dsimp only
    split
    · exact makeClaim_reacts (withLink_reacts h rfl)
    · exact withLink_reacts h rfl
  all_goals exact h

theorem inAbandon_reacts (h : Reaction s t) : Reaction s (inAbandon t) := by
  unfold inAbandon
  split
  case h_1 | h_2 => exact inboundReject_reacts h
  case h_3 => exact withLink_reacts h rfl
  all_goals exact h

theorem linkTimeout_reacts (h : Reaction s t) : Reaction s (linkTimeout t) :=
  withLink_reacts (inAbandon_reacts (outAbandon_reacts (raise_reacts h))) rfl

theorem timedOut_reacts (h : Reaction s t) : Reaction s (timedOut t) := by
  unfold timedOut
  split
  · split
    · exact h
    · exact linkTimeout_reacts h
  · exact h

theorem idleGrantOver_reacts (h : Reaction s t) : Reaction s (idleGrantOver t) := by
  unfold idleGrantOver
  split
  · split
    · exact withLink_reacts h (linkKept_reclaim _)
    · exact h
  · exact h

theorem lackRise_reacts (h : Reaction s t) : Reaction s (lackRise t) := by
  unfold lackRise
  split
  · exact h
  · split
    · exact h
    · exact withLink_reacts h rfl

theorem lackFall_reacts (h : Reaction s t) : Reaction s (lackFall t) := by
  unfold lackFall
  split
  · exact withLink_reacts h rfl
  · exact h

/-- 06 R114: the peer's verdict touches the link alone. -/
theorem peerAccept_link (s : State) : ∃ l, peerAccept s = s.withLink l ∧ linkParameters l = linkParameters s.link
    ∧ l.rejects = s.link.rejects := by
  unfold peerAccept
  split
  · exact ⟨_, rfl, rfl, rfl⟩
  · exact ⟨s.link, rfl, rfl, rfl⟩

theorem peerReject_link (s : State) : ∃ l, peerReject s = s.withLink l ∧ linkParameters l = linkParameters s.link
    ∧ l.sent = s.link.sent := by
  unfold peerReject
  split
  · exact ⟨_, rfl, rfl, rfl⟩
  · exact ⟨s.link, rfl, rfl, rfl⟩

end

/-- The event updates the link within its parameters, counting an accept or a reject, and reacts. -/
def PeerEffect (c : Instr) (s t : State) : Prop :=
  ∃ l, linkParameters l = linkParameters s.link ∧ (c ≠ .peerAccept → l.sent = s.link.sent)
    ∧ (c ≠ .peerReject → l.rejects = s.link.rejects) ∧ Reaction (s.withLink l) t

theorem PeerEffect.of_reaction {c : Instr} {s e : State} (h : Reaction s e) : PeerEffect c s (settle e) :=
  ⟨s.link, rfl, fun _ => rfl, fun _ => rfl, settle_reacts h⟩

theorem peer_command_effect {c : Instr} {s t : State}
    (hc : c = .lackRise ∨ c = .lackFall ∨ c = .peerAccept ∨ c = .peerReject ∨ c = .linkBegin
      ∨ (∃ b, c = .inboundDataByte b) ∨ c = .inboundEnd ∨ c = .inboundAbort ∨ (∃ k b, c = .strayByte k b)
      ∨ c = .lstbFall ∨ c = .lreqRise ∨ c = .lreqFall ∨ c = .linkTimeout ∨ c = .idleGrantExpiry)
    (h : exec c s = .next t) : PeerEffect c s t := by
  obtain rfl | rfl | rfl | rfl | rfl | ⟨b, rfl⟩ | rfl | rfl | ⟨k, b, rfl⟩ | rfl | rfl | rfl | rfl | rfl := hc
  · cases h; exact .of_reaction (lackRise_reacts (.refl s))
  · cases h; exact .of_reaction (lackFall_reacts (.refl s))
  · cases h
    obtain ⟨l, hl, hparams, hrejects⟩ := peerAccept_link s
    exact ⟨l, hparams, fun hne => absurd rfl hne, fun _ => hrejects, hl ▸ settle_reaction _⟩
  · cases h
    obtain ⟨l, hl, hparams, hsent⟩ := peerReject_link s
    exact ⟨l, hparams, fun _ => hsent, fun hne => absurd rfl hne, hl ▸ settle_reaction _⟩
  · cases h; exact .of_reaction (lstbRise_reacts (.refl s))
  · cases h; exact .of_reaction (lstbRise_reacts (.refl s))
  · cases h; exact .of_reaction (lstbRise_reacts (.refl s))
  · cases h; exact .of_reaction (lstbRise_reacts (.refl s))
  · cases h; exact .of_reaction (lstbRise_reacts (.refl s))
  · cases h; exact .of_reaction (lstbFall_reacts (.refl s))
  · cases h
    exact ⟨{ s.link with lreq := true }, rfl, fun _ => rfl, fun _ => rfl, settle_reaction _⟩
  · cases h
    exact ⟨{ s.link with
        lreq := false, lreqFell := s.link.lreqFell || (s.link.state == .reclaiming && s.link.tooLate) },
      rfl, fun _ => rfl, fun _ => rfl, settle_reaction _⟩
  · cases h; exact .of_reaction (timedOut_reacts (.refl s))
  · cases h; exact .of_reaction (idleGrantOver_reacts (.refl s))

/-- Settles O39: an edge or an expiry updates the link within its parameters, and the rest is reactions. -/
theorem linkEventsFrame : Obligations.LinkEventsFrame := by
  intro c s t hc h
  obtain ⟨l, hl, hsent, hrejects, hr⟩ := peer_command_effect hc h
  obtain ⟨hkept, hkeptSent, hkeptRejects⟩ := linkParameters_of_linkKept hr.link
  obtain ⟨⟨hdrain, hfill⟩, hretry, hquota, htimeout⟩ := by
    simpa only [linkParameters, Prod.mk.injEq] using hkept.trans hl
  exact ⟨hr.array, hr.pending, hr.stamp, hr.window, hr.push, hr.pop, hr.events, hr.seq, hr.queues, hr.mode, hdrain,
    hfill, hretry, hquota, htimeout, fun hne => hkeptSent.trans (hsent hne), fun hne => hkeptRejects.trans (hrejects hne)⟩

end Sys2Proof.Machine
end

section
/-! The stored form and the array's mapping (01, 07 R126): where a block lies, and what reads back. -/

namespace Sys2Proof.Machine

/-- The row is what remains of the row-and-bank number b / 8 when the bank is taken out of it. -/
theorem rowOf_eq (c : ArrayConfig) (b : Nat) : rowOf c b = b / 8 / c.banks := (Nat.div_div_eq_div_mul ..).symm

theorem rowOf_lt {c : ArrayConfig} {b : Nat} (hb : b < totalBlocks c) : rowOf c b < c.rows := by
  refine Nat.div_lt_of_lt_mul ?_
  calc b < c.banks * c.rows * 8 := hb
    _ = 8 * c.banks * c.rows := by ring

/-- A bank and a row determine b / 8. -/
theorem div_eight_inj {c : ArrayConfig} {b b' : Nat} (hbank : bankOf c b = bankOf c b') (hrow : rowOf c b = rowOf c b') :
    b / 8 = b' / 8 := by
  rw [rowOf_eq, rowOf_eq] at hrow
  calc b / 8 = c.banks * (b / 8 / c.banks) + b / 8 % c.banks := (Nat.div_add_mod ..).symm
    _ = c.banks * (b' / 8 / c.banks) + b' / 8 % c.banks := congrArg₂ (c.banks * · + ·) hrow hbank
    _ = b' / 8 := Nat.div_add_mod ..

/-- Settles O54: bank and row determine b / 8, and the row byte determines the rest. -/
theorem blocksLieApart : Obligations.BlocksLieApart := by
  intro c b f b' f' hbanks hb hf hf'
  refine ⟨Nat.mod_lt _ hbanks, rowOf_lt hb, ?_, fun hbank hrow hbyte => ?_⟩
  · unfold rowByteOf
    omega
  · have hdiv := div_eight_inj hbank hrow
    unfold rowByteOf at hbyte
    omega

/-! ### Link words and headers read back (01 R2, R3, R5) -/

theorem natOfBytes_three (a b c : Byte) : natOfBytes [a, b, c] = a.toNat * 65536 + b.toNat * 256 + c.toNat := by
  simp only [natOfBytes, List.foldl]
  omega

theorem byteOf_toNat (n i : Nat) : (byteOf n i).toNat = n / 256 ^ i % 256 := BitVec.toNat_ofNat ..

theorem natOfBytes_be16 {n : Nat} (h : n < 2 ^ 16) : natOfBytes (be16 n) = n := by
  simp only [natOfBytes, be16, List.foldl, byteOf_toNat]
  omega

theorem natOfBytes_be24 {n : Nat} (h : n < 2 ^ 24) : natOfBytes (be24 n) = n := by
  simp only [natOfBytes, be24, List.foldl, byteOf_toNat]
  omega

theorem natOfBytes_be32 {n : Nat} (h : n < 2 ^ 32) : natOfBytes (be32 n) = n := by
  simp only [natOfBytes, be32, List.foldl, byteOf_toNat]
  omega

/-- A block number is what its three bytes spell; the check byte is right by construction. -/
theorem classifyLink_linkWord {next : Option Nat} (h : next.getD Config.noneBlock < 2 ^ 24) (total : Nat) :
    classifyLink total (linkWord next) =
      if next.getD Config.noneBlock < total then .names (next.getD Config.noneBlock)
      else if next.getD Config.noneBlock = Config.noneBlock then .none else .chainFault := by
  have hspell := natOfBytes_be24 h
  simp only [be24] at hspell
  simp only [linkWord, classifyLink, hspell, if_true]

theorem headerBytes_length (q : Queue) (h : Header) :
    (headerBytes q h).length = 4 + (if q.stamp then 4 else 0) + (if q.number then 2 else 0) := by
  simp only [headerBytes, List.length_append]
  split_ifs <;> rfl

/-- The optional fields follow the four fixed bytes: the stamp first, then the number. -/
theorem headerBytes_drop (q : Queue) (h : Header) :
    (headerBytes q h).drop 4
      = (if q.stamp then be32 h.stamp.toNat else []) ++ (if q.number then be16 h.seq.toNat else []) := rfl

theorem headerOf_headerBytes (q : Queue) {h : Header} (hl : h.length < 2 ^ 16) :
    headerOf q (headerBytes q h)
      = { h with stamp := if q.stamp then h.stamp else 0, seq := if q.number then h.seq else 0 } := by
  have hlength : natOfBytes ((headerBytes q h).take 2) = h.length := natOfBytes_be16 hl
  have hstamp : BitVec.ofNat 32 (natOfBytes (be32 h.stamp.toNat)) = h.stamp := by
    rw [natOfBytes_be32 h.stamp.isLt, BitVec.ofNat_toNat, BitVec.setWidth_eq]
  have hseq : BitVec.ofNat 16 (natOfBytes (be16 h.seq.toNat)) = h.seq := by
    rw [natOfBytes_be16 h.seq.isLt, BitVec.ofNat_toNat, BitVec.setWidth_eq]
  simp only [headerOf, hlength, headerBytes_drop]
  congr 1
  · split_ifs
    · exact hstamp
    · exact hstamp
    · rfl
  · split_ifs
    · exact hseq
    · exact hseq
    · rfl

/-- Settles O53: a link word is classified by its check byte and its number, and what is written reads back. -/
theorem storedFormReadsBack : Obligations.StoredFormReadsBack := by
  refine ⟨fun total a b c d htotal => ?_, fun q h hl => ⟨headerOf_headerBytes q (by omega), headerBytes_length q h⟩⟩
  intro n
  have hclass : classifyLink total [a, b, c, d]
      = if d = ~~~(a ^^^ b ^^^ c) then
          if n < total then .names n else if n = 0xFFFFFF then .none else .chainFault
        else .chainFault := by
    simp only [classifyLink, natOfBytes_three, checkByte, Config.noneBlock, n]
  clear_value n
  refine ⟨?check, ?names, ?outside, ?none, ?block, ?noBlock⟩
  case check => exact fun hd => hclass.trans (if_neg hd)
  case names => exact fun hd hn => by rw [hclass, if_pos hd, if_pos hn]
  case outside => exact fun hd hn hne => by rw [hclass, if_pos hd, if_neg hn.not_gt, if_neg hne]
  case none =>
    intro hd hn
    rw [hclass, if_pos hd, if_neg (by omega), if_pos hn]
  case block =>
    intro m hm
    rw [classifyLink_linkWord (next := some m) (show m < 2 ^ 24 by omega)]
    exact if_pos hm
  case noBlock =>
    rw [classifyLink_linkWord (next := none) (by decide), if_neg (by simp only [Option.getD_none, Config.noneBlock]; omega)]
    exact if_pos rfl

end Sys2Proof.Machine
end

section
/-! The pool's movements (03 R41): each keeps the count of the blocks. -/

namespace Sys2Proof.Machine

@[simp] theorem setStage_pool (p : Producer) (st : StepStage) (s : State) : (setStage p st s).pool = s.pool := by
  unfold setStage
  exact setWriter_pool ..

/-- Promising a block does not move it. -/
@[simp] theorem promiseTop_length (p : Producer) (l : List CacheBlock) : (promiseTop p l).length = l.length := by
  induction l with
  | nil => rfl
  | cons c rest ih =>
    unfold promiseTop
    split
    · rfl
    · exact congrArg (· + 1) ih

/-- 03 R47: serving a waiting allocation changes only the promises and the list of waiting ones. -/
theorem serveWaiting_pool (s : State) : ∃ l m, (serveWaiting s).pool = { s.pool with cache := l, waitingAllocs := m }
    ∧ l.length = s.pool.cache.length := by
  unfold serveWaiting
  split
  · exact ⟨_, _, setStage_pool .., promiseTop_length ..⟩
  · exact ⟨_, _, rfl, rfl⟩

theorem poolBlocks_serveWaiting (s : State) : poolBlocks (serveWaiting s).pool = poolBlocks s.pool := by
  obtain ⟨l, m, hpool, hl⟩ := serveWaiting_pool s
  simp only [poolBlocks, hpool, hl]

theorem chainCount_serveWaiting (s : State) : (serveWaiting s).pool.chainCount = s.pool.chainCount := by
  obtain ⟨l, m, hpool, -⟩ := serveWaiting_pool s
  rw [hpool]

theorem releaseBlocks_append (r : List Segment) (g : Segment) : releaseBlocks (r ++ [g]) = releaseBlocks r + g.count := by
  simp [releaseBlocks]

theorem fetchConfirmed_sound {bs : List Byte} {s : State} {h : Nat} {next : Option Nat}
    (hhead : s.pool.chainHead = some h)
    (hnext : fetchSound s.pool.chainCount (classifyLink (totalBlocks s.seq.config) bs) = some next) :
    fetchConfirmed bs s = serveWaiting (s.withPool { s.pool with
      cache := { block := h, promised := none } :: s.pool.cache, chainHead := next
      chainCount := s.pool.chainCount - 1 }) := by
  simp only [fetchConfirmed, hhead, hnext]

/-- 03 R44: a chain from which a block is fetched soundly holds one. -/
theorem chainCount_pos_of_fetchSound {n : Nat} {k : LinkClass} {next : Option Nat} (h : fetchSound n k = some next) :
    0 < n := by
  cases k with
  | chainFault => cases h
  | names b =>
    simp only [fetchSound, Option.ite_none_right_eq_some] at h
    omega
  | none =>
    simp only [fetchSound, Option.ite_none_right_eq_some] at h
    omega

theorem poolBlocks_fetchConfirmed {bs : List Byte} {s : State} {h : Nat} {next : Option Nat}
    (hhead : s.pool.chainHead = some h)
    (hnext : fetchSound s.pool.chainCount (classifyLink (totalBlocks s.seq.config) bs) = some next) :
    poolBlocks (fetchConfirmed bs s).pool = poolBlocks s.pool := by
  have hpos := chainCount_pos_of_fetchSound hnext
  rw [fetchConfirmed_sound hhead hnext, poolBlocks_serveWaiting]
  simp only [poolBlocks, withPool_pool, List.length_cons]
  omega

theorem poolBlocks_releaseConfirmed (s : State) : poolBlocks (releaseConfirmed s).pool = poolBlocks s.pool := by
  unfold releaseConfirmed
  split
  · next g rest h =>
    simp only [poolBlocks, releaseBlocks, h, withPool_pool, List.map_cons, List.sum_cons]
    omega
  · rfl

theorem poolBlocks_poolPut {s : State} (hs : s.pool.state = .formatted) (g : Segment) :
    poolBlocks (poolPut g s).pool = poolBlocks s.pool + g.count := by
  unfold poolPut
  rw [if_neg (not_not.mpr hs)]
  split
  · next h =>
    rw [poolBlocks_serveWaiting]
    simp only [poolBlocks, withPool_pool, List.length_cons]
    omega
  · simp only [poolBlocks, withPool_pool, releaseBlocks_append]
    omega

/-- 03 R43: the joined block is in the cache once, so one block leaves. -/
theorem poolBlocks_cacheLeft {s : State} {b : Nat} (h : (s.pool.cache.filter (fun x => x.block == b)).length = 1) :
    poolBlocks (cacheLeft b s).pool + 1 = poolBlocks s.pool := by
  have hsplit := List.length_eq_length_filter_add (l := s.pool.cache) (fun x => x.block == b)
  change s.pool.cache.length = _ + (s.pool.cache.filter (fun c => c.block != b)).length at hsplit
  simp only [poolBlocks, cacheLeft, withPool_pool]
  omega

theorem joinedBlock_blocks (b : Nat) (x : Queue) : (joinedBlock b x).blocks = x.blocks + 1 := by
  unfold joinedBlock
  split
  · next h => simp only [h]
  · rfl

/-- Settles O55: one lemma per movement. -/
theorem poolMovementsKeepTheCount : Obligations.PoolMovementsKeepTheCount := by
  intro s hs
  refine ⟨fun bs h next hhead hnext => ⟨poolBlocks_fetchConfirmed hhead hnext, ?_⟩, fun _ => poolBlocks_releaseConfirmed s,
    poolBlocks_poolPut hs, fun _ => poolBlocks_cacheLeft, fun b q => joinedBlock_blocks b _⟩
  rw [fetchConfirmed_sound hhead hnext, chainCount_serveWaiting]
  rfl

end Sys2Proof.Machine
end

section
/-! The sequencer's choice (07 R135) and the ranking of the causes (10 R159): both take the first of a list. -/

namespace Sys2Proof.Machine

theorem waitingOf_any_iff {x : Seq} {c : Client} {p : Request → Bool} :
    (waitingOf x c).any p = true ↔ ∃ r, waitingOf x c = some r ∧ p r = true := Option.any_eq_true ..

/-- The first client whose waiting request passes the test is chosen. -/
theorem firstWaiting_of_earliest {x : Seq} {p : Request → Bool} {c : Client} {before after : List Client}
    (hlist : x.waitList = before ++ c :: after) (hc : ∃ r, waitingOf x c = some r ∧ p r = true)
    (hbefore : ∀ d ∈ before, ¬∃ r, waitingOf x d = some r ∧ p r = true) : firstWaiting x p = some c := by
  refine List.find?_eq_some_iff_append.mpr ⟨waitingOf_any_iff.mpr hc, before, after, hlist, fun d hd => ?_⟩
  rw [Bool.not_eq_true', ← Bool.not_eq_true, waitingOf_any_iff]
  exact hbefore d hd

theorem firstWaiting_none {x : Seq} {p : Request → Bool}
    (h : ¬∃ d ∈ x.waitList, ∃ r, waitingOf x d = some r ∧ p r = true) : firstWaiting x p = none :=
  List.find?_eq_none.mpr fun d hd hp => h ⟨d, hd, waitingOf_any_iff.mp hp⟩

section
variable {x : Seq} (hdebt : ¬x.config.urgency ≤ x.debt)
include hdebt

theorem choice_passed {c : Client} (h : firstWaiting x (fun r => r.passed == Config.maxPassed) = some c) :
    choice x = some (.request c) := by
  rw [choice, if_neg hdebt, h]

variable (hpassed : firstWaiting x (fun r => r.passed == Config.maxPassed) = none)
include hpassed

theorem choice_hit {c : Client} (h : firstWaiting x (isHit x) = some c) : choice x = some (.request c) := by
  rw [choice, if_neg hdebt, hpassed, h]

variable (hhit : firstWaiting x (isHit x) = none)
include hhit

theorem choice_first {c : Client} (h : firstWaiting x (fun _ => true) = some c) : choice x = some (.request c) := by
  rw [choice, if_neg hdebt, hpassed, hhit, h]

theorem choice_idle (h : firstWaiting x (fun _ => true) = none) :
    choice x = if 1 ≤ x.debt then some .refresh else none := by
  rw [choice, if_neg hdebt, hpassed, hhit, h]

end

/-- Settles O49: the five cases, each by the first client that its test admits. -/
theorem choiceFollowsFiveCases : Obligations.ChoiceFollowsFiveCases := by
  intro x holds earliest some_ hit
  have found (p : Request → Prop) (t : Request → Bool) (ht : ∀ r, t r = true ↔ p r) {c : Client} (h : earliest p c) :
      firstWaiting x t = some c := by
    obtain rfl : (fun r => t r = true) = p := funext fun r => propext (ht r)
    obtain ⟨before, after, hlist, hc, hbefore⟩ := h
    exact firstWaiting_of_earliest hlist hc hbefore
  have missing (p : Request → Prop) (t : Request → Bool) (ht : ∀ r, t r = true ↔ p r) (h : ¬some_ p) :
      firstWaiting x t = none := by
    obtain rfl : (fun r => t r = true) = p := funext fun r => propext (ht r)
    exact firstWaiting_none h
  have none_of_none (p : Request → Prop) (h : ¬some_ fun _ => True) : ¬some_ p :=
    fun ⟨d, hd, r, hr, _⟩ => h ⟨d, hd, r, hr, trivial⟩
  have passed (r : Request) : (r.passed == Config.maxPassed) = true ↔ r.passed = 4 := beq_iff_eq
  have anyOne (r : Request) : true = true ↔ (fun _ : Request => True) r := by simp
  refine ⟨fun h => if_pos h, fun h c hc => ?_, fun h hp c hc => ?_, fun h hp hh c hc => ?_, fun h hn => ?_⟩
  · exact choice_passed h.not_ge (found _ _ passed hc)
  · exact choice_hit h.not_ge (missing _ _ passed hp) (found _ _ (fun _ => .rfl) hc)
  · exact choice_first h.not_ge (missing _ _ passed hp) (missing _ _ (fun _ => .rfl) hh) (found _ _ anyOne hc)
  · exact choice_idle h.not_ge (missing _ _ passed (none_of_none _ hn)) (missing _ _ (fun _ => .rfl) (none_of_none _ hn))
      (missing _ _ anyOne hn)

/-! ### EVID (10 R159) -/

/-- The rank of a cause as one number: the code, and within a code the queue. -/
def Cause.rank (c : Cause) : Nat := c.code * 24 + causeQueue c

theorem causeQueue_lt (c : Cause) : causeQueue c < 24 := by
  cases c with
  | global => exact Nat.zero_lt_succ _
  | queue _ q => exact q.isLt
  | watermark q => exact q.isLt

theorem ranksFirst_iff_rank_le (c d : Cause) : ranksFirst c d ↔ c.rank ≤ d.rank := by
  have hc := causeQueue_lt c
  have hd := causeQueue_lt d
  unfold ranksFirst Cause.rank
  omega

/-- 10 R159: the list names the causes in the order of their rank. -/
theorem ranking_sorted : ranking.Pairwise (fun c d => c.rank < d.rank) := by
  unfold Cause.rank
  decide +kernel

theorem rank_injective {c d : Cause} (h : c.rank = d.rank) : c = d := by
  by_contra hne
  have hsorted := List.pairwise_iff_getElem.mp ranking_sorted
  obtain ⟨i, hi, rfl⟩ := List.mem_iff_getElem.mp (mem_ranking c)
  obtain ⟨j, hj, rfl⟩ := List.mem_iff_getElem.mp (mem_ranking d)
  rcases lt_trichotomy i j with hij | rfl | hij
  · exact (hsorted i j hi hj hij).ne h
  · exact hne rfl
  · exact (hsorted j i hj hi hij).ne' h

/-- The first pending cause of the ranking ranks at or above every pending cause. -/
theorem highest_ranksFirst {s : State} {c d : Cause} (h : highest s = some c) (hd : d.isPending s = true) :
    ranksFirst c d := by
  obtain ⟨-, before, after, hlist, hbefore⟩ := List.find?_eq_some_iff_append.mp h
  have hmem := mem_ranking d
  rw [hlist, List.mem_append, List.mem_cons] at hmem
  rw [ranksFirst_iff_rank_le]
  rcases hmem with hin | rfl | hin
  · exact absurd (hbefore d hin) (by simp only [hd, Bool.not_true, Bool.false_eq_true, not_false_iff])
  · exact le_rfl
  · have hsorted := ranking_sorted
    rw [hlist, List.pairwise_append, List.pairwise_cons] at hsorted
    exact (hsorted.2.1.1 d hin).le

theorem highest_isPending {s : State} {c : Cause} (h : highest s = some c) : c.isPending s = true := List.find?_some h

theorem highest_eq_none_iff {s : State} : highest s = none ↔ ∀ c : Cause, c.isPending s = false := by
  simp only [highest, List.find?_eq_none, mem_ranking, true_imp_iff, Bool.not_eq_true]

theorem exists_highest {s : State} {c : Cause} (h : c.isPending s = true) : ∃ d, highest s = some d := by
  rw [← Option.ne_none_iff_exists']
  intro hnone
  exact absurd h (Bool.eq_false_iff.mp (highest_eq_none_iff.mp hnone c))

/-- A pending cause that ranks at or above every pending cause is the one that EVID reports. -/
theorem highest_eq_some {s : State} {c : Cause} (hc : c.isPending s = true)
    (hfirst : ∀ d : Cause, d.isPending s = true → ranksFirst c d) : highest s = some c := by
  obtain ⟨d, hd⟩ := exists_highest hc
  have hle := (ranksFirst_iff_rank_le _ _).mp (hfirst d (highest_isPending hd))
  have hge := (ranksFirst_iff_rank_le _ _).mp (highest_ranksFirst hd hc)
  rw [hd, rank_injective (hge.antisymm hle)]

theorem highest_windowAccess (s : State) : highest (windowAccess s) = highest s := rfl

/-- 10 R158: the causes of class E, which a read of EVID clears. -/
theorem clearReported_eq (c : Cause) (s : State) : clearReported c s = match c with
    | .global .formatDone => clear .formatDone s
    | .global .modeDone => clear .modeDone s
    | .global .arrayAlert => clear .arrayAlert s
    | _ => s := by
  cases c with
  | global g => cases g <;> rfl
  | queue => rfl
  | watermark => rfl

/-- Settles O27: the ranking is sorted and names every cause, so its first pending cause is the highest-ranked one. -/
theorem evidReportsHighest : Obligations.EvidReportsHighest := by
  intro s
  refine ⟨fun hnone => ?_, fun c hc hfirst => ?_, fun ⟨c, hc⟩ => ?_⟩
  · rw [exec_evidRead, readEvid, highest_windowAccess, highest_eq_none_iff.mpr hnone]
  · rw [exec_evidRead, readEvid, highest_windowAccess, highest_eq_some hc hfirst]
    exact congrArg (fun u => Host.Outcome.next (drive _ u)) (clearReported_eq c _)
  · obtain ⟨d, hd⟩ := exists_highest hc
    exact ⟨d, highest_isPending hd, fun e he => highest_ranksFirst hd he⟩

end Sys2Proof.Machine
end

section
/-! The array fault (08 R147), block by block. -/

namespace Sys2Proof.Machine

/-! ### What the fault does to each part of the state: that of the part's own block -/

theorem poolArrayFault_pool_congr {s t : State} (h : t.pool = s.pool) : (poolArrayFault t).pool = (poolArrayFault s).pool := by
  unfold poolArrayFault
  rw [h]
  split
  case h_1 | h_2 => rw [withPool_pool, withPool_pool]
  all_goals exact h

theorem popArrayFault_pop_congr {s t : State} (h : t.pop = s.pop) : (popArrayFault t).pop = (popArrayFault s).pop := by
  unfold popArrayFault
  rw [h]
  split <;> rw [withPop_pop, withPop_pop]

theorem arrayFault_pool (s : State) : (arrayFault s).pool = (poolArrayFault s).pool := by
  unfold arrayFault
  rw [popArrayFault_eq, pushArrayFault_eq, queuesArrayFault_eq]
  exact poolArrayFault_pool_congr rfl

theorem arrayFault_pop (s : State) : (arrayFault s).pop = (popArrayFault s).pop := by
  unfold arrayFault
  refine popArrayFault_pop_congr ?_
  rw [pushArrayFault_eq, queuesArrayFault_eq, poolArrayFault_eq]
  rfl

theorem arrayFault_link (s : State) : (arrayFault s).link = (linkArrayFault s).link := by
  unfold arrayFault
  rw [popArrayFault_eq, pushArrayFault_eq, queuesArrayFault_eq, poolArrayFault_eq]
  rfl

theorem arrayFault_queue (s : State) (q : QId) : (arrayFault s).queue q = (s.queue q).arrayFault := by
  unfold arrayFault
  rw [popArrayFault_eq, pushArrayFault_eq, queuesArrayFault_eq, poolArrayFault_eq]
  exact Vector.getElem_map ..

theorem arrayFault_window (s : State) : (arrayFault s).window =
    if s.window.qres = .pending then { s.window with qres := .badState } else s.window := by
  unfold arrayFault
  rw [popArrayFault_eq, pushArrayFault_eq, queuesArrayFault_eq, poolArrayFault_eq]
  rfl

theorem arrayFault_events (s : State) : (arrayFault s).events = (raise .arrayFault s).events := by
  unfold arrayFault
  rw [popArrayFault_eq, pushArrayFault_eq, queuesArrayFault_eq, poolArrayFault_eq]
  rfl

theorem arrayFault_modeCtl (s : State) : (arrayFault s).modeCtl = { s.modeCtl with mode := .halted, stop := none } := by
  unfold arrayFault
  rw [popArrayFault_eq, pushArrayFault_eq, queuesArrayFault_eq, poolArrayFault_eq]
  rfl

theorem arrayFault_stamp (s : State) : (arrayFault s).stamp = s.stamp := by
  unfold arrayFault
  rw [popArrayFault_eq, pushArrayFault_eq, queuesArrayFault_eq, poolArrayFault_eq]
  rfl

theorem arrayFault_pending (s : State) : (arrayFault s).pending = s.pending := by
  unfold arrayFault
  rw [popArrayFault_eq, pushArrayFault_eq, queuesArrayFault_eq, poolArrayFault_eq]
  rfl

/-! ### Each block by its state -/

theorem poolArrayFault_broken {s : State} (h : s.pool.state = .formatted ∨ s.pool.state = .formatting) :
    (poolArrayFault s).pool = { s.pool with
      state := .broken, cache := [], release := [], waiting := [], waitingAllocs := [] } := by
  unfold poolArrayFault
  rcases h with h | h <;> rw [h] <;> rfl

theorem poolArrayFault_stays {s : State} (h : s.pool.state = .broken ∨ s.pool.state = .unformatted) :
    poolArrayFault s = s := by
  unfold poolArrayFault
  rcases h with h | h <;> rw [h]

theorem Queue.arrayFault_faulted {x : Queue} (h : x.state = .active ∨ x.state = .held) : x.arrayFault = { x with
    state := .faulted, fault := some .array, pin := none, openRec := none, work := .idle, wait := .none
    claims := [] } := if_pos h

theorem Queue.arrayFault_stays {x : Queue} (h : x.state = .off ∨ x.state = .faulted) : x.arrayFault = x := by
  refine if_neg ?_
  rcases h with h | h <;> simp [h]

theorem pushArrayFault_idle {s : State} (h : s.push.state = .idle) : pushArrayFault s = s := by
  unfold pushArrayFault
  rw [h]

theorem pushArrayFault_busy {s : State} (h : s.push.state ≠ .idle) : pushArrayFault s = pushIdle .arrayError s := by
  unfold pushArrayFault
  split
  · next h' => exact absurd h' h
  all_goals rfl

theorem popArrayFault_idle {s : State} (h : s.pop.state = .idle) :
    popArrayFault s = s.withPop { s.pop with r := { s.pop.r with unwanted := false } } := by
  unfold popArrayFault
  rw [h]

theorem popArrayFault_busy {s : State} (h : s.pop.state ≠ .idle) : popArrayFault s = s.withPop { s.pop with
    state := .idle, r := { s.pop.r.released with unwanted := false }, pinAns := none, last := .arrayError } := by
  unfold popArrayFault
  split
  · next h' => exact absurd h' h
  all_goals rfl

/-- Settles O43: block by block, from what each part of the state is after the fault. -/
theorem arrayFaultEffect : Obligations.ArrayFaultEffect := by
  intro s t
  refine ⟨arrayFault_seq s, ?raised, arrayFault_modeCtl s, ?poolBroken, ?poolStays, ?queueFaulted, ?queueStays, ?pushBusy,
    ?pushIdle, ?popBusy, ?popIdle, ?linkFields⟩
  case raised =>
    change pendingGlobal (arrayFault s).events .arrayFault = true
    rw [arrayFault_events]
    exact (isPending_raise .arrayFault s (.global .arrayFault)).trans (by simp)
  case poolBroken => exact fun h => (arrayFault_pool s).trans (poolArrayFault_broken h)
  case poolStays => exact fun h => (arrayFault_pool s).trans (congrArg State.pool (poolArrayFault_stays h))
  case queueFaulted => exact fun q h => (arrayFault_queue s q).trans (Queue.arrayFault_faulted h)
  case queueStays => exact fun q h => (arrayFault_queue s q).trans (Queue.arrayFault_stays h)
  case pushBusy =>
    intro h
    have hpush : t.push = (pushIdle .arrayError s).push := by
      rw [← pushArrayFault_busy h]
      exact arrayFault_push s
    rw [hpush]
    exact ⟨rfl, rfl, rfl, rfl, rfl, rfl⟩
  case pushIdle => exact fun h => (arrayFault_push s).trans (congrArg State.push (pushArrayFault_idle h))
  case popBusy =>
    intro h
    have hpop : t.pop = _ := (arrayFault_pop s).trans (congrArg State.pop (popArrayFault_busy h))
    rw [hpop]
    exact ⟨rfl, rfl, rfl, rfl, rfl, rfl⟩
  case popIdle => exact fun h => (arrayFault_pop s).trans (congrArg State.pop (popArrayFault_idle h))
  case linkFields =>
    rw [show t.link = (linkArrayFault s).link from arrayFault_link s, show t.window = _ from arrayFault_window s,
      show t.stamp = s.stamp from arrayFault_stamp s, show t.array = s.array from arrayFault_array s,
      show t.pending = s.pending from arrayFault_pending s]
    refine ⟨rfl, rfl, rfl, rfl, rfl, rfl, rfl, rfl, rfl, rfl, rfl, rfl, fun h => ?_, fun h => if_neg h, rfl, rfl, rfl⟩
    rw [if_pos h]

end Sys2Proof.Machine
end

section
/-! What an access changes in the array (07 R137). -/

namespace Sys2Proof.Machine

theorem arrayByteAt_write (m : ArrayMem) {r : Request} (h : r.kind = .write) (bs : List Byte) {i : Nat} (hi : i < bs.length) :
    arrayByteAt (storeAccess m r bs) (arrayAddr r.block r.offset + i) = bs[i] := by
  simp only [storeAccess, h, arrayByteAt, memRead_arrayPut_inside bs m.cells _ i hi]

theorem arrayByteAt_elsewhere (m : ArrayMem) {r : Request} {bs : List Byte} {a : Nat}
    (h : r.kind = .read ∨ a < arrayAddr r.block r.offset ∨ arrayAddr r.block r.offset + bs.length ≤ a) :
    arrayByteAt (storeAccess m r bs) a = arrayByteAt m a := by
  unfold storeAccess
  split
  · rfl
  · next hk => exact arrayByteAt_storeAccess _ _ _ _ (h.resolve_left (by simp [hk]))

theorem takeUp_array (s : State) : (takeUp s).array = s.array := by
  unfold takeUp
  split
  · exact arrayFault_array s
  · rfl

theorem afterCompletion_array (f : Seq → Seq) (s : State) : (afterCompletion f s).array = s.array := by
  unfold afterCompletion
  split
  · exact takeUp_array s
  · rfl

theorem settle_array (s : State) : (settle s).array = s.array := (settle_reaction s).array

/-- An access completes: its client's slot holds the request, and the array takes the bytes moved. -/
theorem accessDone_array (c : Client) (r : Request) (reply : ArrayReply) (s : State) :
    (accessDone c r reply s).array = storeAccess s.array r (movedBytes s.array r reply) := afterCompletion_array ..

theorem reissueDone_array {e : Entry} {c : Client} {r : Request} (h : e.op = .request c r) (reply : ArrayReply) (s : State) :
    (reissueDone e reply s).array = storeAccess s.array r (movedBytes s.array r reply) := by
  simp only [reissueDone, h]
  exact afterCompletion_array ..

/-- Settles O46: the write's bytes read back and the rest stands; a completion stores what its request moved. -/
theorem accessesChangeWrittenBytesAlone : Obligations.AccessesChangeWrittenBytesAlone := by
  refine ⟨fun m r bs a => ⟨arrayByteAt_elsewhere m, fun i hi hk => arrayByteAt_write m hk bs hi⟩, ?access, ?reissue, ?idle⟩
  case access =>
    intro s t c r reply hop h
    change execAccessCompletion reply s = .next t at h
    simp only [execAccessCompletion, hop] at h
    split at h
    · cases h
      rw [settle_array, accessDone_array]
    · cases h
  case reissue =>
    intro s t c r e reply hop hreq h
    change execReissueCompletion reply s = .next t at h
    simp only [execReissueCompletion, hop] at h
    split at h
    · cases h
      rw [settle_array, reissueDone_array hreq]
    · cases h
  case idle =>
    intro s reply
    refine ⟨fun hop => ?_, fun hop => ?_⟩
    · change execAccessCompletion reply s = _
      simp only [execAccessCompletion, hop]
    · change execReissueCompletion reply s = _
      simp only [execReissueCompletion, hop]

end Sys2Proof.Machine
end

section
/-! The answers to claims (02 R18 to R24): opening, pinning, extending, joining, unpinning. -/

namespace Sys2Proof.Machine

theorem setQueue_setQueue (s : State) (q : QId) (x y : Queue) : (s.setQueue q x).setQueue q y = s.setQueue q y := by
  simp only [State.setQueue, withQueues_queues, withQueues_withQueues, Vector.set_set]

/-! ### Open claims (02 R18) -/

/-- 02 R17: the binding under which a producer opens records. -/
def Producer.binding : Producer → Binding
  | .push => .window
  | .link => .link

theorem openAnswer_eq (x : Queue) (p : Producer) : openAnswer x p =
    if x.state = .off ∨ x.state = .faulted then some .badState
    else if x.producer ≠ p.binding then some .badBinding
    else if x.openRec ≠ none then some .busy
    else if x.records = 65535 then some .full
    else none := by
  cases p <;> rfl

theorem answerOpen_refused {q : QId} {p : Producer} {s : State} {r : PushResult} (h : openAnswer (s.queue q) p = some r) :
    answerOpen q p s = openRefused p r s := by
  rw [answerOpen, h]

theorem answerOpen_taken {q : QId} {p : Producer} {s : State} (h : openAnswer (s.queue q) p = none) :
    answerOpen q p s = openTaken p (s.setQueue q { s.queue q with openRec := some p }) := by
  rw [answerOpen, h]

theorem Queue.not_off_of_holding {x : Queue} (h : x.state = .active ∨ x.state = .held) :
    ¬(x.state = .off ∨ x.state = .faulted) := by
  rcases h with h | h <;> simp [h]

/-! ### The Pop Engine's pin claim (02 R22) -/

theorem pinAnswer_pop_eq (x : Queue) : pinAnswer x .pop =
    if x.state ≠ .active then some .badState
    else if x.consumer ≠ .window then some .badBinding
    else if x.records = 0 then some .empty
    else if x.pin ≠ none then some .busy
    else none := rfl

theorem answerPin_pop_refused {q : QId} {s : State} {r : PopResult} (h : pinAnswer (s.queue q) .pop = some r) :
    answerPin q .pop true s = popRefused r (clearQueue .nonempty q s) := by
  simp only [answerPin, h, if_true]

theorem answerPin_pop_taken {q : QId} {s : State} (h : pinAnswer (s.queue q) .pop = none) :
    answerPin q .pop true s
      = popPinned (s.queue q) ((clearQueue .nonempty q s).setQueue q (pinned .pop (s.queue q))) := by
  simp only [answerPin, h, if_true]

/-! ### Extension claims (02 R19, 03 R46, 04 R73) -/

theorem recordWanted_iff (s : State) (p : Producer) :
    recordWanted s p = true ↔ phase s p = .filling ∨ phase s p = .committing := by
  simp only [recordWanted, Bool.or_eq_true, beq_iff_eq]

section
variable {q : QId} {p : Producer} {s : State}

theorem answerExtension_unwanted (h : ¬((s.queue q).openRec = some p ∧ recordWanted s p = true)) :
    answerExtension q p s = endStep p s := by
  unfold answerExtension
  dsimp only
  split_ifs with hopen hwanted
  · rfl
  · rfl
  all_goals exact absurd ⟨not_not.mp hopen, by simpa using hwanted⟩ h

variable (hopen : (s.queue q).openRec = some p) (hwanted : recordWanted s p = true)
include hopen hwanted

theorem answerExtension_below (h : (s.queue q).blocks < (s.queue q).blockLimit) : answerExtension q p s = allocate p s := by
  unfold answerExtension
  dsimp only
  rw [if_neg (not_not.mpr hopen), if_neg (by simp [hwanted]), if_pos h]

theorem answerExtension_limit (h : (s.queue q).blockLimit ≤ (s.queue q).blocks) :
    answerExtension q p s = blockRefused p s := by
  unfold answerExtension
  dsimp only
  rw [if_neg (not_not.mpr hopen), if_neg (by simp [hwanted]), if_neg h.not_gt]

end

/-- 03 R43: the promised blocks above the topmost available one are passed over. -/
theorem available_append {above under : List CacheBlock} {b : Nat} (h : ∀ c ∈ above, c.promised ≠ none) :
    available (above ++ { block := b, promised := none } :: under) = { block := b, promised := none } :: available under := by
  have habove : above.filter (fun c => c.promised.isNone) = [] :=
    List.filter_eq_nil_iff.mpr fun c hc => by simpa using h c hc
  simp [available, List.filter_append, habove]

theorem promiseTop_append {above under : List CacheBlock} {b : Nat} (p : Producer) (h : ∀ c ∈ above, c.promised ≠ none) :
    promiseTop p (above ++ { block := b, promised := none } :: under)
      = above ++ { block := b, promised := some p } :: under := by
  induction above with
  | nil => rfl
  | cons c above ih =>
    have hc : ¬c.promised.isNone = true := by simpa using h c List.mem_cons_self
    rw [List.cons_append, promiseTop, if_neg hc, ih fun d hd => h d (List.mem_cons_of_mem _ hd), List.cons_append]

theorem available_eq_nil {l : List CacheBlock} (h : ∀ c ∈ l, c.promised ≠ none) : available l = [] :=
  List.filter_eq_nil_iff.mpr fun c hc => by simpa using h c hc

section
variable {p : Producer} {s : State}

theorem allocate_unformatted (h : s.pool.state ≠ .formatted) : allocate p s = setStage p .exhausted s := if_pos h

variable (hs : s.pool.state = .formatted)
include hs

theorem allocate_granted {above under : List CacheBlock} {b : Nat} (h : ∀ c ∈ above, c.promised ≠ none)
    (hcache : s.pool.cache = above ++ { block := b, promised := none } :: under) :
    allocate p s = setStage p (.granted b) (s.withPool { s.pool with
      cache := above ++ { block := b, promised := some p } :: under }) := by
  unfold allocate
  rw [if_neg (not_not.mpr hs), hcache, available_append h, promiseTop_append p h]

variable (h : ∀ c ∈ s.pool.cache, c.promised ≠ none)
include h

theorem allocate_waits (hmore : 0 < s.pool.chainCount ∨ s.pool.release ≠ []) : allocate p s
    = setStage p .allocation (s.withPool { s.pool with waitingAllocs := s.pool.waitingAllocs ++ [p] }) := by
  unfold allocate
  rw [if_neg (not_not.mpr hs), available_eq_nil h]
  exact if_pos hmore

theorem allocate_exhausted (hchain : s.pool.chainCount = 0) (hrelease : s.pool.release = []) :
    allocate p s = setStage p .exhausted s := by
  unfold allocate
  rw [if_neg (not_not.mpr hs), available_eq_nil h]
  exact if_neg (by simp [hchain, hrelease])

end

theorem blockRefused_discard {q : QId} {p : Producer} {s : State} (hwanted : recordWanted s p = true)
    (hq : (s.writer p).queue = some q) (h : (s.queue q).policy = .discardOldest) :
    blockRefused p s = makeClaim q (.discard p) (setStage p .discard s) := by
  unfold blockRefused
  rw [if_neg (by simp [hwanted]), hq]
  simp only [h]

theorem blockRefused_refuse {q : QId} {p : Producer} {s : State} (hwanted : recordWanted s p = true)
    (hq : (s.writer p).queue = some q) (h : (s.queue q).policy = .refuse) : blockRefused p s = refuseRecord p s := by
  unfold blockRefused
  rw [if_neg (by simp [hwanted]), hq]
  simp only [h]

theorem ackHeld_writer (l : Link) : (ackHeld l).inb.w = l.inb.w := by
  unfold ackHeld
  split <;> rfl

@[simp] theorem withdrawCommit_link (s : State) : (withdrawCommit s).link = s.link := by
  unfold withdrawCommit
  split <;> rfl

/-- 06 R119: a rejected inbound record is being cancelled, its buffered bytes dropped. -/
theorem inboundReject_link (s : State) : phase (inboundReject s) .link = .cancelling
    ∧ ((inboundReject s).writer .link).step = (s.writer .link).step ∧ ((inboundReject s).writer .link).buf = []
    ∧ (inboundReject s).link.inb.verdict = some .reject := by
  refine ⟨rfl, ?_, rfl, rfl⟩
  change (ackHeld (withdrawCommit s).link).inb.w.step = s.link.inb.w.step
  rw [ackHeld_writer, withdrawCommit_link]

/-- 04 R73, 06 R117: a refused record is being cancelled and its block step has ended. -/
theorem refuseRecord_effect (p : Producer) (s : State) :
    let t := refuseRecord p s
    phase t p = .cancelling ∧ (t.writer p).step = none ∧ (t.writer p).buf = [] ∧ match p with
      | .push => t.push.last = .refused ∧ (Cause.global .pushRefused).isPending t = true
      | .link => t.link.inb.verdict = some .reject := by
  cases p with
  | push => exact ⟨rfl, rfl, rfl, rfl, (isPending_raise ..).trans (by simp)⟩
  | link => exact inboundReject_link (endStep .link s)

/-! ### Join and unpin claims (02 R19, R23) -/

@[simp] theorem setStage_queue (p : Producer) (st : StepStage) (s : State) (q : QId) :
    (setStage p st s).queue q = s.queue q := setWriter_queue ..

theorem setStage_no_step {p r : Producer} {st : StepStage} {s : State} (h : (s.writer p).step = none) :
    ((setStage r st s).writer p).step = none := by
  cases r with
  | push => cases p with
    | push => exact congrArg (Option.map _) h
    | link => exact h
  | link => cases p with
    | push => exact h
    | link => exact congrArg (Option.map _) h

theorem serveWaiting_no_step {p : Producer} {s : State} (h : (s.writer p).step = none) :
    ((serveWaiting s).writer p).step = none := by
  unfold serveWaiting
  split
  · exact setStage_no_step (by rwa [writer_withPool])
  · exact h

@[simp] theorem serveWaiting_queue (s : State) (q : QId) : (serveWaiting s).queue q = s.queue q := by
  unfold serveWaiting
  split
  · rw [setStage_queue, queue_withPool]
  · rfl

theorem poolPut_no_step {p : Producer} {g : Segment} {s : State} (h : (s.writer p).step = none) :
    ((poolPut g s).writer p).step = none := by
  unfold poolPut
  split_ifs
  · exact h
  · exact serveWaiting_no_step (by rwa [writer_withPool])
  · rwa [writer_withPool]

theorem releaseSingle_no_step {p r : Producer} {b : Nat} {s : State} (h : (s.writer p).step = none) :
    ((releaseSingle b r s).writer p).step = none := by
  unfold releaseSingle poolPutSingle
  split_ifs
  · rwa [writer_withPool]
  · exact serveWaiting_no_step (by rwa [writer_withPool])
  · exact poolPut_no_step h
  · rwa [writer_withPool]

@[simp] theorem releaseSingle_queue (b : Nat) (p : Producer) (s : State) (q : QId) :
    (releaseSingle b p s).queue q = s.queue q := by
  unfold releaseSingle poolPutSingle
  split_ifs
  · rfl
  · exact serveWaiting_queue ..
  · exact poolPut_queue ..
  · rfl

@[simp] theorem joinTaken_queue (p : Producer) (n : Nat) (prev : Option Nat) (h : Nat) (s : State) (q : QId) :
    (joinTaken p n prev h s).queue q = s.queue q := by
  unfold joinTaken
  dsimp only
  split
  · rfl
  · split <;> exact setWriter_queue ..

theorem answerJoin_refused {q : QId} {p : Producer} {b : Nat} {s : State} (h : (s.queue q).openRec ≠ some p) :
    answerJoin q p b s = releaseSingle b p (endStep p s) := if_pos h

theorem answerJoin_queue {q : QId} {p : Producer} {b : Nat} {s : State} (h : (s.queue q).openRec = some p) :
    (answerJoin q p b s).queue q = joinedBlock b (s.queue q) := by
  unfold answerJoin
  dsimp only
  rw [if_neg (not_not.mpr h), joinTaken_queue]
  exact queue_setQueue_self ..

theorem answerUnpin_queue (q : QId) (k : Consumer) (noticed : Bool) (s : State) : (answerUnpin q k noticed s).queue q
    = if (s.queue q).pin = some k then { s.queue q with pin := none } else s.queue q := by
  have hset : (if (s.queue q).pin = some k then s.setQueue q { s.queue q with pin := none } else s).queue q
      = if (s.queue q).pin = some k then { s.queue q with pin := none } else s.queue q := by
    split
    · exact queue_setQueue_self ..
    · rfl
  unfold answerUnpin
  cases k with
  | pop => exact hset
  | link =>
    dsimp only
    by_cases hn : noticed = true
    · rw [if_pos hn]
      exact hset
    · rw [if_neg hn]
      exact hset

end Sys2Proof.Machine
end

section
/-! Handovers (02 R21, R24, R25; 03 R48 to R51): a queue's work begins, waits for the owed link word or for the pool, or is
finished; and what the answers to claims are. -/

namespace Sys2Proof.Machine

/-! ### The state at which a work is finished -/

/-- 02 R25: the state as the claim finds it, its queue's work begun. -/
def working (q : QId) (w : Work) (s : State) : State := s.setQueue q { s.queue q with work := w }

/-- 02 R24: what of the state at which a work is finished stands as the claim found it: whether or not the pool has taken the
segment. -/
structure AtHandover (q : QId) (w : Work) (s v : State) : Prop where
  queue : v.queue q = { s.queue q with work := w }
  header : ∀ p, (v.writer p).header = (s.writer p).header
  owed : ∀ p, (v.writer p).owed = (s.writer p).owed
  last : v.push.last = s.push.last

variable {q : QId} {w : Work} {s v : State}

theorem working_atHandover (q : QId) (w : Work) (s : State) : AtHandover q w s (working q w s) where
  queue := queue_setQueue_self ..
  header p := by rw [working, writer_setQueue]
  owed p := by rw [working, writer_setQueue]
  last := rfl

theorem AtHandover.poolPut (h : AtHandover q w s v) (g : Segment) : AtHandover q w s (poolPut g v) where
  queue := (poolPut_queue ..).trans h.queue
  header p := (poolPut_header ..).trans (h.header p)
  owed p := (poolPut_owed ..).trans (h.owed p)
  last := (poolPut_last ..).trans h.last

/-- 02 R24: the open record's producer p owes the link word of the segment's last block. -/
def owes (q : QId) (s : State) (g : Segment) (p : Producer) : Prop :=
  (s.queue q).openRec = some p ∧ (s.writer p).owed.map (·.1) = some g.last

/-- 02 R24: it has posted that word. -/
def postedWord (q : QId) (s : State) (left : Option Segment) : Prop :=
  ∃ g p, left = some g ∧ owes q s g p ∧ slotHolds s p.client .linkWord = true

theorem owedPosted_working_iff {left : Option Segment} (hleft : workSegment (working q w s) q = left) :
    owedPosted (working q w s) q = true ↔ postedWord q s left := by
  rw [owedPosted_iff, hleft]
  simp only [working, queue_setQueue_self, writer_setQueue, slotHolds_setQueue]
  rfl

theorem beginWork_eq (q : QId) (w : Work) (s : State) : beginWork q w s = tryWork q (working q w s) := rfl

/-! ### The pool's part -/

/-- 03 R48: the cache has room for a single block. -/
def roomInCache (s : State) : Prop :=
  s.pool.cache.length < 7 ∨ s.pool.cache.length = 7 ∧ slotHolds s .pool .fetch = false

theorem cacheRoom_iff (s : State) : cacheRoom s = true ↔ roomInCache s := by
  unfold cacheRoom roomInCache
  rw [decide_eq_true_iff]
  cases slotHolds s .pool .fetch with
  | true => simp [Config.cacheBlocks]
  | false =>
    simp only [Config.cacheBlocks, Bool.false_eq_true, if_false, and_true]
    omega

/-- 03 R48, R49, R52: what the pool becomes as it takes a segment. -/
structure PoolTook (s : State) (g : Segment) (y : Pool) : Prop where
  off : s.pool.state ≠ .formatted → y = s.pool
  release : s.pool.state = .formatted → ¬(g.count = 1 ∧ roomInCache s) → y = { s.pool with release := s.pool.release ++ [g] }
  cached : s.pool.state = .formatted → g.count = 1 → roomInCache s → s.pool.waitingAllocs = [] →
    y = { s.pool with cache := { block := g.first, promised := none } :: s.pool.cache }
  served : ∀ a more, s.pool.state = .formatted → g.count = 1 → roomInCache s → s.pool.waitingAllocs = a :: more →
    y = { s.pool with cache := { block := g.first, promised := some a } :: s.pool.cache, waitingAllocs := more }

theorem poolPut_off {g : Segment} (h : s.pool.state ≠ .formatted) : poolPut g s = s := if_pos h

theorem poolPut_release {g : Segment} (h : s.pool.state = .formatted) (hroom : ¬(g.count = 1 ∧ roomInCache s)) :
    poolPut g s = s.withPool { s.pool with release := s.pool.release ++ [g] } := by
  unfold poolPut
  rw [if_neg (not_not.mpr h), if_neg (by rwa [cacheRoom_iff])]

theorem poolPut_cache {g : Segment} (h : s.pool.state = .formatted) (hone : g.count = 1) (hroom : roomInCache s) :
    poolPut g s = serveWaiting (s.withPool { s.pool with
      cache := { block := g.first, promised := none } :: s.pool.cache }) := by
  unfold poolPut
  rw [if_neg (not_not.mpr h), if_pos ⟨hone, (cacheRoom_iff s).mpr hroom⟩]

theorem serveWaiting_none (h : s.pool.waitingAllocs = []) : serveWaiting s = s := by
  unfold serveWaiting
  rw [h]

/-- 03 R47: the block on top of the cache goes to the earliest waiting allocation. -/
theorem serveWaiting_top {a : Producer} {more : List Producer} {b : Nat} {l : List CacheBlock}
    (h : s.pool.waitingAllocs = a :: more) (hcache : s.pool.cache = { block := b, promised := none } :: l) :
    serveWaiting s = setStage a (.granted b) (s.withPool { s.pool with
      cache := { block := b, promised := some a } :: l, waitingAllocs := more }) := by
  unfold serveWaiting
  rw [h, hcache]
  rfl

theorem poolPut_took (g : Segment) (s : State) : PoolTook s g (poolPut g s).pool where
  off h := by rw [poolPut_off h]
  release h hroom := by rw [poolPut_release h hroom, withPool_pool]
  cached h hone hroom hwait := by
    rw [poolPut_cache h hone hroom, serveWaiting_none (by rwa [withPool_pool]), withPool_pool]
  served a more h hone hroom hwait := by
    rw [poolPut_cache h hone hroom, serveWaiting_top (by rwa [withPool_pool]) (by rw [withPool_pool]), setStage_pool]
    rfl

/-! ### A work begins -/

/-- What the finished work of a queue does: `left` is the segment it hands over, `done` the descriptor it leaves. -/
structure Finished (q : QId) (s : State) (left : Option Segment) (done : Queue) (told : State → Prop) (v t : State) : Prop where
  queue : t.queue q = done
  pool : t.pool = v.pool
  told : told t
  owed : ∀ g p, left = some g → owes q s g p → (t.writer p).owed = none

/-- 02 R25, 03 R48 to R52: the four ways a work can begin. -/
structure HandedOver (q : QId) (s : State) (w : Work) (left : Option Segment) (done : Queue) (told : State → Prop)
    (t : State) : Prop where
  posted : postedWord q s left → t = s.setQueue q { s.queue q with work := w, wait := .forLinkWord }
  nothing : ¬postedWord q s left → left = none → t.queue q = done ∧ t.pool = s.pool ∧ told t
  waits : ∀ g, ¬postedWord q s left → left = some g → poolTakes g s = false →
    t = (s.setQueue q { s.queue q with work := w, wait := .atPool }).withPool
      { s.pool with waiting := s.pool.waiting ++ [.ofQueue q] }
  taken : ∀ g, ¬postedWord q s left → left = some g → poolTakes g s = true →
    t.queue q = done ∧ told t ∧ (∀ p, owes q s g p → (t.writer p).owed = none) ∧ PoolTook s g t.pool

theorem beginWork_handedOver {left : Option Segment} {done : Queue} {told : State → Prop}
    (hleft : workSegment (working q w s) q = left)
    (hfinish : ∀ v, AtHandover q w s v → Finished q s left done told v (finishWork q v)) :
    HandedOver q s w left done told (beginWork q w s) := by
  have hposted := owedPosted_working_iff hleft
  have hnot (h : ¬postedWord q s left) : owedPosted (working q w s) q = false :=
    Bool.eq_false_iff.mpr (mt hposted.mp h)
  rw [beginWork_eq]
  constructor
  case posted =>
    intro h
    rw [tryWork_posted (hposted.mpr h), working, queue_setQueue_self, setQueue_setQueue]
  case nothing =>
    intro h hnone
    rw [tryWork_none (hnot h) (hleft.trans hnone)]
    have hf := hfinish _ (working_atHandover q w s)
    exact ⟨hf.queue, hf.pool, hf.told⟩
  case waits =>
    intro g h hg htakes
    rw [tryWork_waits (hnot h) (hleft.trans hg) htakes, working, queue_setQueue_self, setQueue_setQueue, setQueue_pool]
  case taken =>
    intro g h hg htakes
    rw [tryWork_taken (hnot h) (hleft.trans hg) htakes]
    have hf := hfinish _ ((working_atHandover q w s).poolPut g)
    refine ⟨hf.queue, hf.told, fun p hp => hf.owed g p hg hp, ?_⟩
    have htook := poolPut_took g (working q w s)
    rw [hf.pool]
    exact ⟨htook.off, htook.release, htook.cached, htook.served⟩

/-! ### A cancel (02 R21) -/

/-- 02 R21, 04 R77, 06 R119: what a producer is told of its cancel; s is the state as the claim found it. -/
def toldCancelled (p : Producer) (s t : State) : Prop :=
  match p with
  | .push => t.push.state = .idle ∧ t.push.last = s.push.last
  | .link => t.link.inb.cancelDone = true

theorem cancelDone_told {p : Producer} (h : v.push.last = s.push.last) : toldCancelled p s (cancelDone p v) := by
  cases p with
  | push => exact ⟨rfl, h⟩
  | link => rfl

theorem finishWork_cancelled {p : Producer} (hopen : (s.queue q).openRec = some p) (hv : AtHandover q (.cancel p) s v)
    (left : Option Segment) :
    Finished q s left (cancelEffect { s.queue q with work := .cancel p }).unheld (toldCancelled p s) v (finishWork q v) := by
  rw [finishWork_cancel (by rw [hv.queue]), hv.queue]
  constructor
  · rw [cancelDone_queue, queue_setQueue_self]
  · rw [cancelDone_pool, setQueue_pool]
  · exact cancelDone_told hv.last
  · intro g p' _ ho
    obtain rfl : p = p' := Option.some.inj (hopen.symm.trans ho.1)
    exact cancelDone_owed ..

theorem answerCancel_refused {p : Producer} (h : (s.queue q).openRec ≠ some p) :
    answerCancel q p s = cancelDone p s := if_pos h

theorem answerCancel_handedOver {p : Producer} (h : (s.queue q).openRec = some p) :
    HandedOver q s (.cancel p) (cancelSegment (s.queue q)) (cancelEffect { s.queue q with work := .cancel p }).unheld
      (toldCancelled p s) (answerCancel q p s) := by
  rw [answerCancel, if_neg (not_not.mpr h)]
  refine beginWork_handedOver ?_ fun v hv => finishWork_cancelled h hv _
  rw [workSegment, working, queue_setQueue_self]
  rfl

/-! ### A removal (02 R24) -/

/-- 05 R94, 06 R115: what a consumer is told of its removal. -/
def toldRemoved (c : Consumer) (t : State) : Prop :=
  match c with
  | .pop => t.pop.state = .idle ∧ t.pop.last = .released
  | .link => t.link.last = .accepted ∧ t.link.retryCount = 0 ∧ t.link.retryRecord = none

theorem removeTaken_told (c : Consumer) (v : State) : toldRemoved c (removeTaken c v) := by
  cases c with
  | pop => exact ⟨rfl, rfl⟩
  | link => exact ⟨rfl, rfl, rfl⟩

/-- 02 R24: the descriptor after the removal. -/
def removed (x : Queue) (header : Option Pos) (r : Removal) : Queue :=
  { (headAdvance x header r).unheld with pin := none }

theorem openHeader_atHandover (hv : AtHandover q w s v) : openHeader v (v.queue q) = openHeader s (s.queue q) := by
  rw [hv.queue]
  unfold openHeader
  dsimp only
  split
  · rfl
  · exact hv.header _

theorem workSegment_remove {c : Consumer} {r : Removal} (hv : AtHandover q (.remove c r) s v) :
    workSegment v q = advanceSegment (s.queue q) (openHeader s (s.queue q)) r := by
  unfold workSegment
  dsimp only
  rw [openHeader_atHandover hv, hv.queue]
  rfl

theorem finishWork_removed {c : Consumer} {r : Removal} (hv : AtHandover q (.remove c r) s v) :
    Finished q s (advanceSegment (s.queue q) (openHeader s (s.queue q)) r)
      (removed { s.queue q with work := .remove c r } (openHeader s (s.queue q)) r) (toldRemoved c) v (finishWork q v) := by
  rw [finishWork_remove (by rw [hv.queue]), openHeader_atHandover hv, hv.queue]
  constructor
  · rw [removeTaken_queue, queue_setQueue_self, removed]
  · rw [removeTaken_pool, setQueue_pool, dropOwed_pool]
  · exact removeTaken_told c _
  · intro g p hg ho
    rw [removeTaken_writer, writer_setQueue]
    refine dropOwed_owed ((workSegment_remove hv).trans hg) ?_ ?_
    · rw [hv.queue]
      exact ho.1
    · rw [hv.owed]
      exact ho.2

@[simp] theorem removeRefused_queue (c : Consumer) (s : State) (q : QId) : (removeRefused c s).queue q = s.queue q := by
  cases c <;> rfl

theorem answerRemove_refused {c : Consumer} {r : Removal} (h : (s.queue q).pin ≠ some c) :
    answerRemove q c r s = removeRefused c s := if_pos h

theorem answerRemove_handedOver {c : Consumer} {r : Removal} (h : (s.queue q).pin = some c) :
    HandedOver q s (.remove c r) (advanceSegment (s.queue q) (openHeader s (s.queue q)) r)
      (removed { s.queue q with work := .remove c r } (openHeader s (s.queue q)) r) (toldRemoved c)
      (answerRemove q c r s) := by
  rw [answerRemove, if_neg (not_not.mpr h)]
  exact beginWork_handedOver (workSegment_remove (working_atHandover ..)) fun v hv => finishWork_removed hv

end Sys2Proof.Machine
end

section
/-! What the claims' answers are, condition by condition (02 R18 to R24). -/

namespace Sys2Proof.Machine

theorem nextHead_eq (x : Queue) (header : Option Pos) (r : Removal) : nextHead x header r =
    if 1 < x.records then some (r.next.getD (x.second.getD r.endPos)) else header := by
  unfold nextHead
  cases r.next <;> rfl

/-- 05 R94: the last block of the record leaves with it unless the new head lies in it. -/
theorem leftBehind_other {r : Removal} {h : Pos} (hne : h.block ≠ r.endPos.block) :
    leftBehind r h = some { first := r.run.first, last := r.endPos.block, count := r.run.count } := if_neg hne

theorem leftBehind_prev {r : Removal} {h : Pos} {b : Nat} (heq : h.block = r.endPos.block) (hb : r.run.prev = some b) :
    leftBehind r h
      = if 2 ≤ r.run.count then some { first := r.run.first, last := b, count := r.run.count - 1 } else none := by
  unfold leftBehind
  rw [if_pos heq, hb]
  dsimp only
  by_cases h2 : 2 ≤ r.run.count
  · rw [if_neg (by omega), if_pos h2]
  · rw [if_pos (by omega), if_neg h2]

theorem leftBehind_none {r : Removal} {h : Pos} (heq : h.block = r.endPos.block) (hb : r.run.prev = none) :
    leftBehind r h = none := by
  unfold leftBehind
  rw [if_pos heq, hb]

theorem headAdvance_none {x : Queue} {header : Option Pos} {r : Removal} (h : nextHead x header r = none) :
    headAdvance x header r
      = { x with records := x.records - 1, payload := x.payload - r.length, second := none }.emptied := by
  unfold headAdvance
  dsimp only
  rw [h]

theorem headAdvance_some {x : Queue} {header : Option Pos} {r : Removal} {h : Pos} (hh : nextHead x header r = some h) :
    headAdvance x header r = { x with
      records := x.records - 1, payload := x.payload - r.length, second := none, head := some h
      blocks := x.blocks - segmentBlocks (advanceSegment x header r)
      tail := if 1 < x.records then x.tail else some h
      joined := if 1 < x.records then x.joined else none } := by
  unfold headAdvance
  dsimp only
  rw [hh]
  dsimp only
  split_ifs <;> rfl

theorem segmentBlocks_eq (left : Option Segment) : segmentBlocks left = (left.map (·.count)).getD 0 := by
  cases left <;> rfl

/-- Settles O13: each claim by the conditions of its answer; cancel and removal by what the beginning of a work is. -/
theorem claimAnswers : Obligations.ClaimAnswers := by
  unfold Obligations.ClaimAnswers
  intro chainOf gone withdrawn handover
  have handed {q : QId} {s t : State} {w : Work} {left : Option Segment} {done : Queue} {told : State → Prop}
      (h : HandedOver q s w left done told t) : handover q s w left done t (told t) := by
    refine ⟨h.posted, h.nothing, fun g hp hl ht => ?_, fun g hp hl ht => ?_⟩
    · exact h.waits g hp hl (Bool.eq_false_iff.mpr (mt (poolTakes_iff g s).mp ht))
    · obtain ⟨hqueue, htold, howed, htook⟩ := h.taken g hp hl ((poolTakes_iff g s).mpr ht)
      exact ⟨hqueue, htold, howed, htook.off, htook.release, htook.cached, htook.served⟩
  refine ⟨?opening, ?pin, ?extension, ?join, ?unpin, ?cancel, ?remove⟩
  case opening =>
    intro q p s x bound
    have hbound : bound ↔ x.producer = p.binding := by cases p <;> rfl
    have hanswer := openAnswer_eq x p
    refine ⟨fun h => ?_, fun h hb => ?_, fun h hb ho => ?_, fun h hb ho hr => ?_, fun h hb ho hr => ?_⟩
    · exact answerOpen_refused (hanswer.trans (if_pos h))
    all_goals rw [hbound] at hb; rw [if_neg (Queue.not_off_of_holding h)] at hanswer
    · exact answerOpen_refused (hanswer.trans (if_pos hb))
    all_goals rw [if_neg (not_not.mpr hb)] at hanswer
    · exact answerOpen_refused (hanswer.trans (if_pos ho))
    all_goals rw [if_neg (not_not.mpr ho)] at hanswer
    · exact answerOpen_refused (hanswer.trans (if_pos hr))
    · exact answerOpen_taken (hanswer.trans (if_neg hr))
  case pin =>
    intro q s x u
    have hanswer := pinAnswer_pop_eq x
    refine ⟨fun h => ?_, fun h hc => ?_, fun h hc hr => ?_, fun h hc hr hp => ?_, fun b h hc hr hp hb => ?_⟩
    · exact answerPin_pop_refused (hanswer.trans (if_pos h))
    all_goals rw [if_neg (not_not.mpr h)] at hanswer
    · exact answerPin_pop_refused (hanswer.trans (if_pos (by simp [hc])))
    all_goals rw [if_neg (not_not.mpr hc)] at hanswer
    · exact answerPin_pop_refused (hanswer.trans (if_pos hr))
    all_goals rw [if_neg hr] at hanswer
    · exact answerPin_pop_refused (hanswer.trans (if_pos hp))
    · rw [if_neg (not_not.mpr hp)] at hanswer
      intro t
      have ht : t = popPinned x (u.setQueue q (pinned .pop x)) := answerPin_pop_taken hanswer
      rw [ht]
      refine ⟨queue_setQueue_self .., rfl, rfl, ?_, rfl, ?_⟩
      · simp only [popPinned, withPop_pop, hb, Option.getD_some]
      · simp only [popPinned, withPop_pop, hb, Option.getD_some]
  case extension =>
    intro q p s x t wanted below atLimit
    have hwanted : wanted ↔ x.openRec = some p ∧ recordWanted s p = true := and_congr_right' (recordWanted_iff s p).symm
    refine ⟨fun h => ?_, fun h hs => ?_, fun above b under h hs habove hcache => ?_,
      fun h hs hall => ⟨fun hmore => ?_, fun hchain hrelease => ?_⟩, fun h hpolicy => ?_, fun h hpolicy => ?_⟩
    · exact answerExtension_unwanted (mt hwanted.mpr h)
    all_goals obtain ⟨hopen, hw⟩ := hwanted.mp h.1
    · exact (answerExtension_below hopen hw h.2).trans (allocate_unformatted hs)
    · exact (answerExtension_below hopen hw h.2).trans (allocate_granted hs habove hcache)
    · exact (answerExtension_below hopen hw h.2).trans (allocate_waits hs hall hmore)
    · exact (answerExtension_below hopen hw h.2).trans (allocate_exhausted hs hall hchain hrelease)
    · exact (answerExtension_limit hopen hw h.2.1).trans (blockRefused_discard hw h.2.2 hpolicy)
    · have ht : t = refuseRecord p s :=
        (answerExtension_limit hopen hw h.2.1).trans (blockRefused_refuse hw h.2.2 hpolicy)
      rw [ht]
      exact refuseRecord_effect p s
  case join =>
    intro q p b s x t
    refine ⟨fun h => ?_, fun h hb => ?_, fun h hb => ?_⟩
    · have ht : t = releaseSingle b p (endStep p s) := answerJoin_refused h
      rw [ht]
      refine ⟨(releaseSingle_queue ..).trans (setWriter_queue ..), releaseSingle_no_step ?_⟩
      rw [endStep, writer_setWriter]
    · exact (answerJoin_queue h).trans (if_pos hb)
    · exact (answerJoin_queue h).trans (if_neg hb)
  case unpin =>
    intro q k noticed s x t
    exact ⟨fun h => (answerUnpin_queue ..).trans (if_pos h), fun h => (answerUnpin_queue ..).trans (if_neg h)⟩
  case cancel =>
    intro q p s x t left closed done told
    have hdone : done = (cancelEffect { x with work := .cancel p }).unheld := by
      simp only [done, cancelEffect, apply_ite Queue.unheld]
      refine if_congr Iff.rfl rfl ?_
      simp only [Queue.unheld, segmentBlocks_eq]
      rfl
    refine ⟨fun h => ?_, fun h => ?_⟩
    · have ht : t = cancelDone p s := answerCancel_refused h
      rw [show told = toldCancelled p s t from rfl, ht]
      exact ⟨cancelDone_queue .., cancelDone_told rfl⟩
    · rw [hdone]
      exact handed (answerCancel_handedOver h)
  case remove =>
    intro q k r s x t newHead left counted done told
    have hnext : newHead = nextHead x (openHeader s x) r := by
      rw [nextHead_eq, openHeader]
      refine if_congr Iff.rfl rfl ?_
      cases x.openRec <;> rfl
    have hleft : left = advanceSegment x (openHeader s x) r := by
      simp only [left]
      rw [hnext, advanceSegment]
      cases nextHead x (openHeader s x) r with
      | none => rfl
      | some h =>
        dsimp only
        by_cases hb : h.block = r.endPos.block
        · cases hp : r.run.prev with
          | none => exact (if_neg (not_not.mpr hb)).trans (leftBehind_none hb hp).symm
          | some b => exact (if_neg (not_not.mpr hb)).trans (leftBehind_prev hb hp).symm
        · rw [leftBehind_other hb]
          cases r.run.prev <;> exact if_pos hb
    have hdone : done = removed { x with work := .remove k r } (openHeader s x) r := by
      have hsame : nextHead { x with work := .remove k r } (openHeader s x) r = nextHead x (openHeader s x) r := rfl
      simp only [done]
      rw [hnext, removed]
      cases h : nextHead x (openHeader s x) r with
      | none =>
        rw [headAdvance_none (hsame.trans h)]
        rfl
      | some b =>
        rw [headAdvance_some (hsame.trans h), segmentBlocks_eq, hleft]
        rfl
    refine ⟨fun h => ?_, fun h => ?_⟩
    · have ht : t = removeRefused k s := answerRemove_refused h
      rw [ht]
      exact removeRefused_queue ..
    · rw [hdone, hleft]
      exact handed (answerRemove_handedOver h)

end Sys2Proof.Machine
end

section
/-! The machine as a whole: the front command, a clock, and the reset values. -/

namespace Sys2Proof.Machine

theorem step_front {c : Instr} {rest : List Instr} {s : State} (h : s.pending = c :: rest) :
    step s = exec c (s.withPending rest) := by
  rw [step, h]

theorem step_tick {s : State} (h : s.pending = []) : step s = tick s := by
  rw [step, h]

theorem tick_due {s : State} {c : Instr} (h : dueCommand s = some c) : tick s = exec c s := by
  rw [tick, h]

theorem tick_clock {s : State} (h : dueCommand s = none) : tick s = .next (clock s) := by
  rw [tick, h]

/-- Settles O1: a step looks at the waiting commands first. -/
theorem stepRunsFrontCommand : Obligations.StepRunsFrontCommand := fun _ _ _ h => step_front h

/-- Settles O2: with no waiting command a step is a tick. -/
theorem emptyQueuePassesOneClock : Obligations.EmptyQueuePassesOneClock := fun _ h =>
  ⟨fun _ hc => (step_tick h).trans (tick_due hc), fun hnone => (step_tick h).trans (tick_clock hnone)⟩

/-- 10 R163: no queue of a reset part is at a watermark. -/
theorem reset_noCause (c : Cause) : c.isPending State.reset = false := by
  cases c with
  | global g => exact Vector.getElem_replicate ..
  | queue k q => cases k <;> exact Vector.getElem_replicate ..
  | watermark q =>
    change (State.reset.queue q).atWatermark = false
    rw [reset_queue]
    rfl

/-- Settles O3: RESET leaves the reset state but for LREQ, the array's clock and the waiting commands; the values are read
off it. -/
theorem resetValues : Obligations.ResetValues := by
  refine ⟨fun s => ⟨resetPart s, rfl, rfl, rfl, rfl, rfl, resetPart_queue s, rfl, rfl, rfl, rfl, rfl, rfl, rfl⟩, ?values⟩
  case values =>
    refine ⟨fun q => ?queue, ?parts⟩
    case parts =>
      have hslot (c : Client) : State.reset.slot c = .empty := by cases c <;> rfl
      exact ⟨rfl, rfl,
        rfl, rfl, rfl, rfl, rfl, rfl, rfl, rfl, rfl, rfl, rfl, rfl, rfl, rfl, rfl,
        rfl, rfl, rfl, rfl,
        rfl, rfl, rfl, rfl, rfl, rfl, rfl, rfl, rfl, rfl, rfl, rfl, rfl, rfl, rfl, rfl, rfl,
        rfl, rfl, rfl, hslot, rfl, rfl, rfl, rfl, rfl, rfl, rfl,
        rfl, reset_noCause, rfl, rfl, rfl, rfl, rfl,
        rfl, rfl, rfl, rfl⟩
    case queue =>
      rw [reset_queue]
      exact ⟨rfl, rfl, rfl, rfl, rfl, rfl, rfl, rfl, rfl, rfl, rfl, rfl, rfl, rfl, rfl, rfl, rfl, rfl, rfl, rfl⟩

end Sys2Proof.Machine
end

section
/-! The push commands (04): payload writes, OPEN, REPEAT, END and CANCEL. -/

namespace Sys2Proof.Machine

/-- The reactions inside one event leave PLEN, LOST and REPEATED (04 R81). -/
theorem settle_pushKept (s : State) : pushKept (settle s).push = pushKept s.push := (settle_reaction s).push

theorem settle_accepted (s : State) : (settle s).push.accepted = s.push.accepted := congrArg Prod.fst (settle_pushKept s)

theorem settle_lost (s : State) : (settle s).push.lost = s.push.lost := congrArg (·.2.1) (settle_pushKept s)

/-! ### Payload writes (04 R65, R67, R68) -/

theorem Push.full_iff (x : Push) : x.full = true ↔ x.remainder ≠ none ∨ 64 ≤ x.w.buf.length := by
  rw [Push.full_eq, decide_eq_true_iff]

theorem Push.not_full {x : Push} (hr : x.remainder = none) (hb : x.w.buf.length < 64) : ¬x.full = true := by
  rw [Push.full_iff]
  exact fun h => h.elim (· hr) hb.not_ge

section
variable {s : State} (b : Byte)

theorem pushPayload_overrun (h : s.push.remainder ≠ none ∨ 64 ≤ s.push.w.buf.length) : pushPayload b s
    = raise .pushOverrun (s.withPush { s.push with lost := true, armed := none }) := if_pos ((Push.full_iff _).mpr h)

variable (hr : s.push.remainder = none) (hb : s.push.w.buf.length < 64)
include hr hb

theorem pushPayload_tooLong (h : 16384 < s.push.accepted + s.push.copies) : pushPayload b s
    = raise .pushTooLong (s.withPush
      { s.push with state := .cancelling, w := { s.push.w with buf := [] }, armed := none, last := .tooLong }) := by
  have hcancel : pushPayload b s = pushTooLong s := by
    unfold pushPayload
    rw [if_neg (Push.not_full hr hb)]
    exact if_pos h
  simp only [hcancel, pushTooLong, pushCancel, hr]

theorem pushPayload_accept (h : s.push.accepted + s.push.copies ≤ 16384) :
    pushPayload b s = s.withPush (s.push.accept b s.push.copies) := by
  unfold pushPayload
  rw [if_neg (Push.not_full hr hb)]
  exact if_neg h.not_gt

end

/-- 04 R67: the copies that find room enter the FIFO, the others are the remainder. -/
theorem Push.accept_eq (x : Push) (b : Byte) (c : Nat) : x.accept b c = { x with
    accepted := x.accepted + c, armed := none
    w := { x.w with buf := x.w.buf ++ List.replicate (min c (64 - x.w.buf.length)) b }
    remainder := if c ≤ 64 - x.w.buf.length then none else some (b, c - (64 - x.w.buf.length)) } := by
  unfold Push.accept
  dsimp only [Config.fifoBytes]
  split_ifs with hzero hle hle
  · rfl
  · omega
  · omega
  · rw [Nat.min_eq_right (by omega)]

/-- 04 R65: with no repeat armed a write brings one copy, which finds room. -/
theorem Push.accept_one {x : Push} (ha : x.armed = none) (hr : x.remainder = none) (hb : x.w.buf.length < 64) (b : Byte) :
    x.accept b 1 = { x with accepted := x.accepted + 1, w := { x.w with buf := x.w.buf ++ [b] } } := by
  rw [Push.accept_eq, if_pos (by omega), Nat.min_eq_left (by omega), ha, hr]
  rfl

/-- A payload write answers what `pushPayload` answers, and the reactions leave PLEN and LOST. -/
theorem exec_payload {b : Byte} {s e : State} (hs : s.push.state = .filling) (h : pushPayload b (windowAccess s) = e) :
    ∃ t, exec (.dataWrite b) s = .next t ∧ t = settle e ∧ t.push.accepted = e.push.accepted ∧ t.push.lost = e.push.lost := by
  refine ⟨settle e, ?_, rfl, settle_accepted e, settle_lost e⟩
  rw [exec_dataWrite, pushData_filling (s := windowAccess s) hs, h]

/-- Settles O5: overrun, too long or accepted; the copies are those of the armed repeat. -/
theorem payloadWrites : Obligations.PayloadWrites := by
  refine ⟨fun b s hs ha => ?plain, fun b s c hs ha _ _ => ?armed⟩
  case plain =>
    have hcopies : (windowAccess s).push.copies = 1 := by rw [windowAccess_push, Push.copies, ha]; rfl
    refine ⟨fun h => ?_, fun hr hb hacc => ?_, fun hr hb hacc => ?_⟩
    · refine exec_payload hs ?_
      simp only [pushPayload_overrun (s := windowAccess s) b h, windowAccess_push, ha]
    · obtain ⟨t, hexec, ht, haccepted, hlost⟩ := exec_payload hs
        (pushPayload_tooLong (s := windowAccess s) b hr hb (by rw [hcopies, windowAccess_push]; omega))
      refine ⟨t, hexec, ?_, haccepted.trans hacc, hlost⟩
      simp only [ht, windowAccess_push, ha]
    · refine exec_payload hs ?_
      rw [pushPayload_accept (s := windowAccess s) b hr hb (by rw [hcopies, windowAccess_push]; omega), hcopies,
        windowAccess_push, Push.accept_one ha hr hb]
  case armed =>
    have hcopies : (windowAccess s).push.copies = c := by rw [windowAccess_push, Push.copies, ha]; rfl
    refine ⟨fun h => ?_, fun hr hb hacc => ?_, fun hr hb hacc => ?_⟩
    · exact exec_payload hs (pushPayload_overrun (s := windowAccess s) b h)
    · exact exec_payload hs (pushPayload_tooLong (s := windowAccess s) b hr hb (by rw [hcopies]; exact hacc))
    · refine exec_payload hs ?_
      rw [pushPayload_accept (s := windowAccess s) b hr hb (by rw [hcopies]; exact hacc), hcopies, windowAccess_push,
        Push.accept_eq]

/-! ### OPEN, REPEAT, END and CANCEL (04 R60 to R76) -/

theorem exec_pctlOpen (q : QId) (s : State) : exec (.pctlOpen q) s = .next (settle (pushOpen q (windowAccess s))) := rfl

theorem exec_pctlRepeat (n : Fin 64) (s : State) : exec (.pctlRepeat n) s = .next (pushRepeat n.val (windowAccess s)) := rfl

theorem exec_pctlEnd (s : State) : exec .pctlEnd s = .next (settle (pushEnd (windowAccess s))) := rfl

theorem exec_pctlCancel (s : State) : exec .pctlCancel s = .next (settle (pushCancelled (windowAccess s))) := rfl

section
variable {s : State}

theorem pushOpen_protocol (h : s.push.state ≠ .idle) (q : QId) : pushOpen q s = raise .pushProtocol s := by
  unfold pushOpen
  split
  · next h' => exact absurd h' h
  all_goals rfl

theorem pushOpen_badMode (h : s.push.state = .idle) (hm : s.modeCtl.mode ≠ .run) (q : QId) :
    pushOpen q s = raise .pushRefused (s.withPush { s.push with last := .badMode }) := by
  simp only [pushOpen, h, hm, if_false]

theorem pushOpen_taken (h : s.push.state = .idle) (hm : s.modeCtl.mode = .run) (q : QId) :
    pushOpen q s = makeClaim q (.openRec .push) (s.withPush (s.push.opening q)) := by
  simp only [pushOpen, h, hm, if_true]

theorem pushRepeat_taken (h : s.push.state = .filling) (ha : s.push.armed = none) (n : Nat) :
    pushRepeat n s = s.withPush { s.push with armed := some (n + 2), repeated := true } := by
  simp only [pushRepeat, h, ha]

theorem pushRepeat_protocol (h : s.push.state ≠ .filling ∨ s.push.armed ≠ none) (n : Nat) :
    pushRepeat n s = raise .pushProtocol s := by
  unfold pushRepeat
  split
  · next hs ha => exact absurd h (by simp [hs, ha])
  · rfl

theorem pushEnd_taken (h : s.push.state = .filling) (ha : s.push.armed = none) :
    pushEnd s = s.withPush { s.push with state := .committing } := by
  simp only [pushEnd, h, ha]

theorem pushEnd_protocol (h : s.push.state ≠ .filling ∨ s.push.armed ≠ none) : pushEnd s = raise .pushProtocol s := by
  unfold pushEnd
  split
  · next hs ha => exact absurd h (by simp [hs, ha])
  · rfl

theorem pushCancelled_taken (h : s.push.state = .awaitTag ∨ s.push.state = .filling) :
    pushCancelled s = pushCancel .cancelled s := by
  rcases h with h | h <;> simp only [pushCancelled, h]

theorem pushCancelled_protocol (h : s.push.state = .idle ∨ s.push.state = .committing ∨ s.push.state = .cancelling) :
    pushCancelled s = raise .pushProtocol s := by
  rcases h with h | h | h <;> simp only [pushCancelled, h, pushProtocol]

end

/-- Settles O6, by the state of the push context and the mode. -/
theorem openByStateAndMode : Obligations.OpenByStateAndMode := by
  intro q s
  rw [exec_pctlOpen]
  refine ⟨fun h => ?protocol, fun h hm => ?badMode, fun h hm => ?taken⟩
  case protocol => rw [pushOpen_protocol (s := windowAccess s) h]
  case badMode => rw [pushOpen_badMode (s := windowAccess s) h hm, windowAccess_push]
  case taken =>
    rw [pushOpen_taken (s := windowAccess s) h hm]
    exact ⟨_, rfl, rfl, settle_pushKept _⟩

/-- Settles O7, by the state of the push context and the armed repeat. -/
theorem repeatEndCancel : Obligations.RepeatEndCancel := by
  intro n s
  rw [exec_pctlRepeat, exec_pctlEnd, exec_pctlCancel]
  refine ⟨fun h ha => ⟨?_, ?_⟩, fun h => ⟨?_, ?_⟩, fun h => ?cancelled, fun h => ?refused⟩
  · rw [pushRepeat_taken (s := windowAccess s) h ha, windowAccess_push]
  · rw [pushEnd_taken (s := windowAccess s) h ha, windowAccess_push]
  · rw [pushRepeat_protocol (s := windowAccess s) h]
  · rw [pushEnd_protocol (s := windowAccess s) h]
  case cancelled =>
    rw [pushCancelled_taken (s := windowAccess s) h]
    exact ⟨_, rfl, rfl, settle_accepted _⟩
  case refused => rw [pushCancelled_protocol (s := windowAccess s) h]

/-! ### The commit claim (02 R20, 04 R75) -/

theorem answerCommit_taken {q : QId} {n : Nat} {h e : Pos} {p : Producer} {s : State}
    (ho : (s.queue q).openRec = some p) : answerCommit q p n h e s
      = if (s.queue q).records = 0 then
          raiseQueue .nonempty q (commitTaken p (s.setQueue q (committed n h e (s.queue q))))
        else commitTaken p (s.setQueue q (committed n h e (s.queue q))) := by
  unfold answerCommit
  dsimp only
  rw [if_neg (not_not.mpr ho)]

theorem answerCommit_refused {q : QId} {n : Nat} {h e : Pos} {p : Producer} {s : State}
    (ho : (s.queue q).openRec ≠ some p) : answerCommit q p n h e s = dropRecord p s := if_pos ho

/-- The commit of the first record of an empty queue raises NONEMPTY and changes nothing else than the others do. -/
theorem answerCommit_push_eq {q : QId} {n : Nat} {h e : Pos} {s : State} (ho : (s.queue q).openRec = some .push) :
    let t := answerCommit q .push n h e s
    t.queue q = committed n h e (s.queue q) ∧ t.push = (pushIdle .committed s).push
      ∧ t.events.nonempty[q.val]'q.isLt = (s.events.nonempty[q.val]'q.isLt || (s.queue q).records == 0) := by
  intro t
  have hqueue : (commitTaken .push (s.setQueue q (committed n h e (s.queue q)))).queue q = committed n h e (s.queue q) :=
    queue_setQueue_self ..
  by_cases hr : (s.queue q).records = 0
  · have ht : t = _ := (answerCommit_taken ho).trans (if_pos hr)
    rw [ht]
    refine ⟨hqueue, rfl, ?_⟩
    rw [hr]
    exact (Vector.getElem_set_self _).trans (Bool.or_true _).symm
  · have ht : t = _ := (answerCommit_taken ho).trans (if_neg hr)
    rw [ht]
    refine ⟨hqueue, rfl, ?_⟩
    rw [beq_eq_false_iff_ne.mpr hr, Bool.or_false]
    rfl

/-- Settles O14: a taken commit counts the record in the descriptor; a refused one drops it. -/
theorem commitClaimAnswers : Obligations.CommitClaimAnswers := by
  intro q n h e s x t
  refine ⟨fun ho => ?taken, fun ho => ?refused⟩
  case taken =>
    obtain ⟨hqueue, hpush, hmark⟩ := answerCommit_push_eq (n := n) (h := h) (e := e) ho
    rw [show t.queue q = _ from hqueue, show t.push = _ from hpush]
    exact ⟨rfl, rfl, rfl, rfl, rfl, rfl, rfl, rfl, rfl, rfl, hmark⟩
  case refused =>
    rw [show t = dropRecord .push s from answerCommit_refused ho]
    exact ⟨rfl, rfl, rfl⟩

end Sys2Proof.Machine
end

section
/-! The pop commands (05): DATA reads, SELECT, RELEASE, RETURN and REWIND. -/

namespace Sys2Proof.Machine

/-- The reactions inside one event leave the presented header and OREM (05 R98). -/
theorem settle_popKept (s : State) : popKept (settle s).pop = popKept s.pop := (settle_reaction s).pop

theorem settle_remaining (s : State) : (settle s).pop.r.remaining = s.pop.r.remaining := congrArg Prod.snd (settle_popKept s)

/-- The reactions inside one event leave the byte that the part drives. -/
theorem settle_dataOut (s : State) : (settle s).window.dataOut = s.window.dataOut :=
  (congrArg Window.dataOut (settle_reaction s).window).trans rfl

/-! ### DATA reads (05 R89) -/

section
variable {s : State}

theorem popByte_not_ready (h : s.pop.state ≠ .ready) : popByte s.pop = 0 := by
  unfold popByte
  split
  · next h' => exact absurd h' h
  all_goals rfl

theorem popByte_pastEnd (h : s.pop.state = .ready) (hr : s.pop.r.remaining = 0) : popByte s.pop = 0 := by
  simp only [popByte, h, hr, if_true]

theorem popByte_ready (h : s.pop.state = .ready) (hr : s.pop.r.remaining ≠ 0) : popByte s.pop = s.pop.r.buf.headD 0 := by
  simp only [popByte, h, hr, if_false]

theorem popRead_pastEnd (h : s.pop.state = .ready) (hr : s.pop.r.remaining = 0) : popRead s = raise .popPastEnd s := by
  simp only [popRead, h, hr, if_true]

theorem popRead_underrun (h : s.pop.state = .ready) (hr : s.pop.r.remaining ≠ 0) (hb : s.pop.r.buf = []) :
    popRead s = raise .popUnderrun s := by
  simp only [popRead, h, hr, hb, if_false]

theorem popRead_byte {b : Byte} {rest : List Byte} (h : s.pop.state = .ready) (hr : s.pop.r.remaining ≠ 0)
    (hb : s.pop.r.buf = b :: rest) : popRead s = s.withPop { s.pop with
      r := { s.pop.r with buf := rest, remaining := s.pop.r.remaining - 1 } } := by
  simp only [popRead, h, hr, hb, if_false]

theorem popRead_loading (h : s.pop.state = .loading) : popRead s = raise .popUnderrun s := by
  simp only [popRead, h]

theorem popRead_idle (h : s.pop.state = .idle ∨ s.pop.state = .releasing) : popRead s = s := by
  rcases h with h | h <;> simp only [popRead, h]

end

/-- A DATA read drives the byte and then does what `popRead` does; the reactions leave the byte and OREM. -/
theorem exec_dataRead_byte {s e : State} {b : Byte} (hb : popByte s.pop = b) (he : popRead (drive b (windowAccess s)) = e) :
    ∃ t, exec .dataRead s = .next t ∧ t = settle e ∧ t.window.dataOut = e.window.dataOut
      ∧ t.pop.r.remaining = e.pop.r.remaining := by
  refine ⟨settle e, ?_, rfl, settle_dataOut e, settle_remaining e⟩
  rw [exec_dataRead, readData, hb, he]

/-- Settles O10, by the state of the pop context and the bytes it has. -/
theorem dataReadByState : Obligations.DataReadByState := by
  intro s
  refine ⟨fun h hr => ?pastEnd, fun h hr hb => ?underrun, fun b rest h hr hb => ?byte, fun h => ?loading, fun h => ?idle⟩
  case pastEnd =>
    obtain ⟨t, hexec, ht, hout, hrem⟩ :=
      exec_dataRead_byte (popByte_pastEnd h hr) (popRead_pastEnd (s := drive 0 (windowAccess s)) h hr)
    exact ⟨t, hexec, ht, hout, hrem.trans hr⟩
  case underrun =>
    have hbyte : popByte s.pop = 0 := by rw [popByte_ready h hr, hb]; rfl
    exact exec_dataRead_byte hbyte (popRead_underrun (s := drive 0 (windowAccess s)) h hr hb)
  case byte =>
    have hbyte : popByte s.pop = b := by rw [popByte_ready h hr, hb]; rfl
    exact exec_dataRead_byte hbyte (popRead_byte (s := drive b (windowAccess s)) h hr hb)
  case loading =>
    obtain ⟨t, hexec, ht, hout, -⟩ := exec_dataRead_byte (popByte_not_ready (s := s) (by rw [h]; decide))
      (popRead_loading (s := drive 0 (windowAccess s)) h)
    exact ⟨t, hexec, ht, hout⟩
  case idle =>
    obtain ⟨t, hexec, ht, hout, -⟩ := exec_dataRead_byte
      (popByte_not_ready (s := s) (by rcases h with h | h <;> rw [h] <;> decide))
      (popRead_idle (s := drive 0 (windowAccess s)) h)
    exact ⟨t, hexec, ht, hout⟩

/-! ### The OCTL commands (05 R83 to R93) -/

theorem exec_octlSelect (q : QId) (s : State) : exec (.octlSelect q) s = .next (settle (popSelect q (windowAccess s))) := rfl

theorem exec_octlRelease (s : State) : exec .octlRelease s = .next (settle (popRelease (windowAccess s))) := rfl

theorem exec_octlReturn (s : State) : exec .octlReturn s = .next (settle (popReturn (windowAccess s))) := rfl

theorem exec_octlRewind (s : State) : exec .octlRewind s = .next (settle (popRewind (windowAccess s))) := rfl

theorem exec_octlUndefinedCode {code : Byte} (h : octlUndefined code = true) (s : State) :
    exec (.octlUndefinedCode code) s = .next (setPopResult .badCode (windowAccess s)) := if_pos h

section
variable {s : State}

theorem popSelect_busy (h : s.pop.state ≠ .idle) (q : QId) : popSelect q s = setPopResult .busy s := by
  unfold popSelect
  split
  · next h' => exact absurd h' h
  all_goals rfl

theorem popSelect_badMode (h : s.pop.state = .idle) (hm : s.modeCtl.mode ≠ .run) (q : QId) :
    popSelect q s = setPopResult .badMode s := by
  simp only [popSelect, h, hm, if_false]

theorem popSelect_taken (h : s.pop.state = .idle) (hm : s.modeCtl.mode = .run) (q : QId) :
    popSelect q s = makeClaim q (.pin .pop true) (s.withPop (s.pop.selecting q)) := by
  simp only [popSelect, h, hm, if_true]

theorem popRelease_notReady (h : s.pop.state ≠ .ready) : popRelease s = setPopResult .notReady s := by
  unfold popRelease
  split
  · next h' => exact absurd h' h
  all_goals rfl

theorem popRelease_taken (h : s.pop.state = .ready) : popRelease s = s.withPop { s.pop with
    state := .releasing
    r := { s.pop.r with buf := [], walk := .walking
                        unwanted := s.pop.r.unwanted || slotHolds s .popr .payloadRead } } := by
  simp only [popRelease, h]

theorem popRewind_notReady (h : s.pop.state ≠ .ready) : popRewind s = setPopResult .notReady s := by
  unfold popRewind
  split
  · next h' => exact absurd h' h
  all_goals rfl

theorem popRewind_taken (h : s.pop.state = .ready) : popRewind s = s.withPop { s.pop with
    r := { s.pop.r.rewound with unwanted := readerUnwanted .pop s }, last := .rewound } := by
  simp only [popRewind, h]

theorem popReturn_notReady (h : s.pop.state = .idle ∨ s.pop.state = .releasing) :
    popReturn s = setPopResult .notReady s := by
  rcases h with h | h <;> simp only [popReturn, h]

theorem popReturn_taken (h : s.pop.state = .loading ∨ s.pop.state = .ready) : popReturn s = popReturned s := by
  rcases h with h | h <;> simp only [popReturn, h]

theorem popReturned_pinned {q : QId} (h : s.pop.r.queue = some q) : popReturned s
    = makeClaim q (.unpin .pop false) (disownPins q (s.withPop { s.pop with
        state := .idle, r := { s.pop.r.released with unwanted := readerUnwanted .pop s }
        pinAns := none, last := .returned })) := by
  simp only [popReturned, h]

end

/-- Settles O11: SELECT by the state of the pop context and the mode; the others where they are refused. -/
theorem selectAndRefusedPopCommands : Obligations.SelectAndRefusedPopCommands := by
  refine ⟨fun q s => ?select, fun code s => ?refused⟩
  case select =>
    rw [exec_octlSelect]
    refine ⟨fun h => ?busy, fun h hm => ?badMode, fun h hm => ?taken⟩
    case busy => rw [popSelect_busy (s := windowAccess s) h]; rfl
    case badMode => rw [popSelect_badMode (s := windowAccess s) h hm]; rfl
    case taken =>
      rw [popSelect_taken (s := windowAccess s) h hm]
      exact ⟨_, rfl, rfl, settle_popKept _⟩
  case refused =>
    refine ⟨fun h => exec_octlUndefinedCode h s, fun h => ⟨?_, ?_⟩, fun h => ?_⟩
    · rw [exec_octlRelease, popRelease_notReady (s := windowAccess s) h]; rfl
    · rw [exec_octlRewind, popRewind_notReady (s := windowAccess s) h]; rfl
    · rw [exec_octlReturn, popReturn_notReady (s := windowAccess s) h]; rfl

/-- Settles O12: RELEASE, REWIND and RETURN in the states that take them. -/
theorem popCommandsTaken : Obligations.PopCommandsTaken := by
  intro s
  refine ⟨fun h => ?release, fun p h hp => ?rewind, fun q h hq => ?returned⟩
  case release =>
    rw [exec_octlRelease, popRelease_taken (s := windowAccess s) h]
    exact ⟨_, rfl, rfl, settle_popKept _⟩
  case rewind =>
    have hrewound : s.pop.r.rewound = { s.pop.r with
        buf := [], remaining := s.pop.r.hdr.length, unfetched := s.pop.r.hdr.length
        fetch := some { p with offset := p.offset + s.pop.r.hsize }
        run := some { first := p.block, prev := none, count := 1 } } := by
      simp only [Reader.rewound, hp, Option.map_some, firstPayload, Pos.add]
    rw [exec_octlRewind, popRewind_taken (s := windowAccess s) h]
    refine ⟨_, rfl, ?_, (settle_popKept _).trans rfl⟩
    rw [show (windowAccess s).pop.r.rewound = _ from hrewound]
    rfl
  case returned =>
    rw [exec_octlReturn, popReturn_taken (s := windowAccess s) h, popReturned_pinned (s := windowAccess s) hq]
    exact ⟨_, rfl, rfl, settle_popKept _⟩

end Sys2Proof.Machine
end

section
/-! The indexed window (11 R168 to R170): decoding QCMD, and STORE to the link page and to the array and pool page. -/

namespace Sys2Proof.Machine

/-! ### QCMD codes and the page that QSEL names (11 R168) -/

theorem pageOf_ne_queue {b : Byte} (hb : 24 ≤ b.toNat) (q : QId) : pageOf b ≠ some (.queue q) := by
  unfold pageOf
  rw [dif_neg hb.not_gt]
  split_ifs <;> simp

theorem pageOf_none {b : Byte} (hb : 24 ≤ b.toNat) (hlink : b.toNat ≠ 30) (harray : b.toNat ≠ 31) : pageOf b = none := by
  unfold pageOf
  rw [dif_neg hb.not_gt, if_neg hlink, if_neg harray]

section
variable {s : State}

theorem queueCommand_pending (h : s.window.qres = .pending) (f : QId → State → State) : queueCommand f s = s := if_pos h

theorem pageCommand_pending (h : s.window.qres = .pending) (f : Page → State → State) : pageCommand f s = s := if_pos h

theorem queueCommand_badQueue (h : s.window.qres ≠ .pending) (hn : 24 ≤ s.window.qsel.toNat) (f : QId → State → State) :
    queueCommand f s = setQres .badQueue s := by
  unfold queueCommand
  rw [if_neg h]
  split
  · next hq => exact absurd hq (pageOf_ne_queue hn _)
  all_goals rfl

theorem pageCommand_badQueue (h : s.window.qres ≠ .pending) (hn : pageOf s.window.qsel = none) (f : Page → State → State) :
    pageCommand f s = setQres .badQueue s := by
  unfold pageCommand
  rw [if_neg h, hn]

end

theorem exec_qcmdUndefinedCode {code : Byte} (h : qcmdUndefined code = true) (s : State) :
    exec (.qcmdUndefinedCode code) s = .next (queueControl code (windowAccess s)) := if_pos h

/-- 11 Table 11-3: a code outside 1 to 8 is none of the commands. -/
theorem queueControl_undefined {code : Byte} (h : qcmdUndefined code = true) (s : State) :
    queueControl code s = if s.window.qres = .pending then s else setQres .badValue s := by
  have hne (k : Byte) (hk : 1 ≤ k.toNat ∧ k.toNat ≤ 8) : code ≠ k := by
    rintro rfl
    simp [qcmdUndefined, hk] at h
  unfold queueControl
  rw [if_neg (hne 1 (by decide)), if_neg (hne 2 (by decide)), if_neg (hne 3 (by decide)), if_neg (hne 4 (by decide)),
    if_neg (hne 5 (by decide)), if_neg (hne 6 (by decide)), if_neg (hne 7 (by decide)), if_neg (hne 8 (by decide))]

/-- What the six queue commands do where the decoder does the same for every one of them. -/
theorem queue_commands_of_decoded {s t : State} (h : ∀ f, queueCommand f (windowAccess s) = t) :
    exec .qcmdEnable s = .next (settle t) ∧ exec .qcmdHold s = .next (settle t)
      ∧ exec .qcmdResume s = .next (settle t) ∧ exec .qcmdFlush s = .next (settle t)
      ∧ exec .qcmdDisable s = .next t ∧ exec .qcmdClearfault s = .next t :=
  ⟨congrArg (fun u => Host.Outcome.next (settle u)) (h enableQueue), congrArg (fun u => Host.Outcome.next (settle u)) (h holdQueue),
    congrArg (fun u => Host.Outcome.next (settle u)) (h resumeQueue),
    congrArg (fun u => Host.Outcome.next (settle u)) (h flushQueue), congrArg Host.Outcome.next (h disableQueue),
    congrArg Host.Outcome.next (h clearFault)⟩

theorem page_commands_of_decoded {s t : State} (h : ∀ f, pageCommand f (windowAccess s) = t) :
    exec .qcmdFetch s = .next t ∧ exec .qcmdStore s = .next t :=
  ⟨congrArg Host.Outcome.next (h fetchPage), congrArg Host.Outcome.next (h storePage)⟩

/-- Settles O15, by the conditions of R168 in order. -/
theorem qcmdDecoding : Obligations.QcmdDecoding := by
  intro code s n still pages
  refine ⟨fun hp => ⟨?_, ?_, fun hc => ?_⟩, fun hp => ⟨fun hc => ?_, fun hn => ?_, fun hn hlink harray => ?_⟩⟩
  · exact queue_commands_of_decoded (queueCommand_pending hp)
  · exact page_commands_of_decoded (pageCommand_pending hp)
  · rw [exec_qcmdUndefinedCode hc, queueControl_undefined hc]
    exact congrArg Host.Outcome.next (if_pos hp)
  · rw [exec_qcmdUndefinedCode hc, queueControl_undefined hc]
    exact congrArg Host.Outcome.next (if_neg hp)
  · exact queue_commands_of_decoded (queueCommand_badQueue (s := windowAccess s) hp hn)
  · exact page_commands_of_decoded (pageCommand_badQueue (s := windowAccess s) hp (pageOf_none hn hlink harray))

/-! ### STORE to a page: what its owner answers (11 R170) -/

theorem exec_qcmdStore_page {s : State} {p : Page} (hq : s.window.qres ≠ .pending) (hp : pageOf s.window.qsel = some p) :
    exec .qcmdStore s = .next (storePage p (windowAccess s)) :=
  congrArg Host.Outcome.next (pageCommand_page (s := windowAccess s) hq hp storePage)

/-- 11 R170: STORE answers what the page's owner answers for the field and the staged value. -/
theorem exec_qcmdStore_answered {s t : State} {p : Page} {r : QRes} (hq : s.window.qres ≠ .pending)
    (hp : pageOf s.window.qsel = some p)
    (h : ownerStore p s.window.qfld.toNat (s.window.qv0.toNat * 65536 + s.window.qv1.toNat * 256 + s.window.qv2.toNat)
      (windowAccess s) = some (r, t)) :
    exec .qcmdStore s = .next (setQres r t) := by
  rw [← stagedValue_eq] at h
  rw [exec_qcmdStore_page hq hp, storePage, windowAccess_qfld, windowAccess_stagedValue, h]

theorem exec_qcmdStore_noField {s : State} {p : Page} (hq : s.window.qres ≠ .pending)
    (hp : pageOf s.window.qsel = some p)
    (h : ∀ v, ownerStore p s.window.qfld.toNat v (windowAccess s) = none) :
    exec .qcmdStore s = .next (setQres .badField (windowAccess s)) := by
  rw [exec_qcmdStore_page hq hp, storePage, windowAccess_qfld, h]

/-! ### The link page (06 R106) -/

theorem linkStorable_iff (l : Link) : linkStorable l = true
    ↔ l.state = .off ∧ l.out.state = .idle ∧ l.inb.state = .idle ∧ l.out.r.unwanted = false := by
  simp only [linkStorable, Bool.and_eq_true, beq_iff_eq, Bool.not_eq_true', and_assoc]

theorem storeParameter_badState {s : State} (h : ¬linkStorable s.link = true) (y : Option Link) :
    storeParameter y s = (.badState, s) := if_pos (by simpa using h)

theorem storeParameter_storable {s : State} (h : linkStorable s.link = true) (y : Option Link) :
    storeParameter y s = match y with
      | some l => (.ok, s.withLink l)
      | none => (.badValue, s) := if_neg (by simp [h])

theorem storeParameter_stored {s : State} (h : linkStorable s.link = true) (l : Link) :
    storeParameter (some l) s = (.ok, s.withLink l) := storeParameter_storable h _

theorem storeParameter_badValue {s : State} (h : linkStorable s.link = true) :
    storeParameter none s = (.badValue, s) := storeParameter_storable h _

theorem namedQueue_none {v : Nat} (h : v = 0xFF) : namedQueue v = some none := by
  subst h
  rfl

theorem namedQueue_queue {v : Nat} {q : QId} (h : v = q.val) : namedQueue v = some (some q) := by
  subst h
  exact dif_pos q.isLt

theorem namedQueue_outside {v : Nat} (h : 24 ≤ v) (hne : v ≠ 0xFF) : namedQueue v = none := by
  rw [namedQueue, dif_neg h.not_gt, if_neg hne]

theorem storeLink_noField {f : Nat} (hf : 9 ≤ f) (v : Nat) (s : State) : storeLink f v s = none := by
  unfold storeLink
  split
  case h_10 => rfl
  all_goals omega

/-- 06 R106: a parameter of a link that is not at rest. -/
theorem storeLink_badState {s : State} {f : Nat} (hf : f ≤ 4) (h : ¬linkStorable s.link = true) (v : Nat) :
    storeLink f v s = some (.badState, s) := by
  interval_cases f <;> exact congrArg some (storeParameter_badState h _)

section
variable {s : State} (h : linkStorable s.link = true) {v : Nat}
include h

theorem storeLink_drainQ {q : Option QId} (hv : namedQueue v = some q) :
    storeLink 0 v s = some (.ok, s.withLink { s.link with drainQ := q, retryCount := 0, retryRecord := none }) := by
  simp only [storeLink, hv, Option.map_some, storeParameter_stored h, retryCleared]

theorem storeLink_fillQ {q : Option QId} (hv : namedQueue v = some q) :
    storeLink 1 v s = some (.ok, s.withLink { s.link with fillQ := q }) := by
  simp only [storeLink, hv, Option.map_some, storeParameter_stored h]

theorem storeLink_queue_badValue {f : Nat} (hf : f = 0 ∨ f = 1) (hv : namedQueue v = none) :
    storeLink f v s = some (.badValue, s) := by
  rcases hf with rfl | rfl <;> simp only [storeLink, hv, Option.map_none, storeParameter_badValue h]

theorem storeLink_retryLimit (hv : v ≤ 7) : storeLink 2 v s = some (.ok, s.withLink { s.link with retryLimit := v }) := by
  simp only [storeLink, if_pos hv, storeParameter_stored h]

theorem storeLink_retryLimit_badValue (hv : 7 < v) : storeLink 2 v s = some (.badValue, s) := by
  simp only [storeLink, if_neg hv.not_ge, storeParameter_badValue h]

theorem storeLink_quota (hlo : 1 ≤ v) (hhi : v ≤ 15) :
    storeLink 3 v s = some (.ok, s.withLink { s.link with quota := v }) := by
  simp only [storeLink, if_pos (And.intro hlo hhi), storeParameter_stored h]

theorem storeLink_quota_badValue (hv : v = 0 ∨ 15 < v) : storeLink 3 v s = some (.badValue, s) := by
  have hout : ¬(1 ≤ v ∧ v ≤ 15) := by omega
  simp only [storeLink, if_neg hout, storeParameter_badValue h]

theorem storeLink_timeout (hlo : 1 ≤ v) (hhi : v ≤ 255) :
    storeLink 4 v s = some (.ok, s.withLink { s.link with timeout := v }) := by
  simp only [storeLink, if_pos (And.intro hlo hhi), storeParameter_stored h]

theorem storeLink_timeout_badValue (hv : v = 0 ∨ 255 < v) : storeLink 4 v s = some (.badValue, s) := by
  have hout : ¬(1 ≤ v ∧ v ≤ 255) := by omega
  simp only [storeLink, if_neg hout, storeParameter_badValue h]

end

/-- Settles O18: STORE answers what the link page's owner answers, field by field. -/
theorem storeToLinkPage : Obligations.StoreToLinkPage := by
  intro s hp hsel l f v answer stored still
  have hpage : pageOf s.window.qsel = some .link := by rw [hsel]; rfl
  have answered {r : QRes} {t : State} (h : storeLink f v (windowAccess s) = some (r, t)) :
      exec .qcmdStore s = .next (setQres r t) := exec_qcmdStore_answered hp hpage h
  have noField (hf : 9 ≤ f) : answer .badField := exec_qcmdStore_noField hp hpage fun v => storeLink_noField hf v _
  have hstill : still ↔ linkStorable (windowAccess s).link = true := (linkStorable_iff l).symm
  clear_value f v
  refine ⟨?_, ?_, ?_, ?_, fun hf h => ?_, fun h => ?params⟩
  · rintro (rfl | hf)
    · exact answered rfl
    · exact noField hf
  · rintro rfl; exact answered rfl
  · rintro rfl; exact answered rfl
  · rintro rfl; exact answered rfl
  · exact answered (storeLink_badState hf (mt hstill.mpr h) v)
  case params =>
    rw [hstill] at h
    refine ⟨?_, fun q => ?_, ?_, fun q => ?_, fun hf hlo hne => ?_, ?_, ?_, ?_, ?_, ?_, ?_⟩
    · rintro rfl hv; exact answered (storeLink_drainQ h (namedQueue_none hv))
    · rintro rfl hv; exact answered (storeLink_drainQ h (namedQueue_queue hv))
    · rintro rfl hv; exact answered (storeLink_fillQ h (namedQueue_none hv))
    · rintro rfl hv; exact answered (storeLink_fillQ h (namedQueue_queue hv))
    · exact answered (storeLink_queue_badValue h hf (namedQueue_outside hlo hne))
    · rintro rfl hv; exact answered (storeLink_retryLimit h hv)
    · rintro rfl hv; exact answered (storeLink_retryLimit_badValue h hv)
    · rintro rfl hlo hhi; exact answered (storeLink_quota h hlo hhi)
    · rintro rfl hv; exact answered (storeLink_quota_badValue h hv)
    · rintro rfl hlo hhi; exact answered (storeLink_timeout h hlo hhi)
    · rintro rfl hv; exact answered (storeLink_timeout_badValue h hv)

/-! ### The array and pool page (07 R125) -/

theorem storeShape_badMode {s : State} (h : s.modeCtl.mode ≠ .config) (y : Option Seq) :
    storeShape y s = (.badMode, s) := if_pos h

theorem storeShape_badState {s : State} (h : s.modeCtl.mode = .config) (hs : s.seq.state ≠ .off) (y : Option Seq) :
    storeShape y s = (.badState, s) := by
  unfold storeShape
  rw [if_neg (not_not.mpr h), if_pos hs]

theorem storeShape_off {s : State} (h : s.modeCtl.mode = .config) (hs : s.seq.state = .off) (y : Option Seq) :
    storeShape y s = (y.map fun x => (QRes.ok, s.withSeq x)).getD (.badValue, s) := by
  unfold storeShape
  rw [if_neg (not_not.mpr h), if_neg (not_not.mpr hs)]
  cases y <;> rfl

theorem storeArray_readOnly {f : Nat} (hlo : 6 ≤ f) (hhi : f ≤ 14) (v : Nat) (s : State) :
    storeArray f v s = some (.badField, s) := by
  interval_cases f <;> rfl

theorem storeArray_noField {f : Nat} (hf : 16 ≤ f) (v : Nat) (s : State) : storeArray f v s = none := by
  unfold storeArray
  split
  case h_17 => rfl
  all_goals omega

/-- 07 R125: every parameter of the array's shape wants CONFIG, whatever the value. -/
theorem storeArray_badMode {s : State} {f : Nat} (hf : f ≤ 5) (h : s.modeCtl.mode ≠ .config) (v : Nat) :
    storeArray f v s = some (.badMode, s) := by
  interval_cases f <;> exact congrArg some (storeShape_badMode h _)

theorem storeArray_badState {s : State} {f : Nat} (hf : f ≤ 5) (h : s.modeCtl.mode = .config) (hs : s.seq.state ≠ .off)
    (v : Nat) : storeArray f v s = some (.badState, s) := by
  interval_cases f <;> exact congrArg some (storeShape_badState h hs _)

theorem storePrescale_badValue {v : Nat} (h : v = 0 ∨ 65536 < v) (s : State) : storePrescale v s = (.badValue, s) :=
  if_neg (by omega)

theorem storePrescale_stored {v : Nat} (hlo : 1 ≤ v) (hhi : v ≤ 65536) (s : State) :
    storePrescale v s = (.ok, s.withStamp { s.stamp with prescale := v, left := v }) := if_pos ⟨hlo, hhi⟩

theorem timingInRange_iff (v : Nat) :
    timingInRange v = true ↔ v < 4096 ∧ 1 ≤ v / 256 ∧ 1 ≤ v / 16 % 16 ∧ 1 ≤ v % 16 := decide_eq_true_iff

/-- 07 R124: TIMING's three digits of base 16. -/
theorem timing_digits {v a b d : Nat} (h : v = a * 256 + b * 16 + d) (hb : b ≤ 15) (hd : d ≤ 15) :
    v / 256 = a ∧ v / 16 % 16 = b ∧ v % 16 = d := by
  omega

section
variable {s : State} (h : s.modeCtl.mode = .config) (hs : s.seq.state = .off)
include h hs

/-- 07 R125: a parameter of the array's shape, by whether the value is in range. -/
theorem storeShape_changed (b : Bool) (c : ArrayConfig) : storeShape (changedConfig s.seq b c) s
    = if b then (.ok, s.withSeq { s.seq with config := c }) else (.badValue, s) := by
  rw [storeShape_off h hs]
  cases b <;> rfl

theorem storeShape_banks (b : Bool) (c : ArrayConfig) : storeShape ((changedConfig s.seq b c).map closeBanks) s
    = if b then (.ok, s.withSeq { s.seq with config := c, bankTable := List.replicate c.banks none })
      else (.badValue, s) := by
  rw [storeShape_off h hs]
  cases b <;> rfl

theorem storeArray_inOff (f v : Nat) (hf : f ≤ 5) : storeArray f v s =
    match f with
    | 0 => some (if v == 4 || v == 8 then
        (.ok, s.withSeq { s.seq with config := { s.seq.config with banks := v }, bankTable := List.replicate v none })
        else (.badValue, s))
    | 1 => some (if v == 4096 || v == 8192 || v == 16384 then
        (.ok, s.withSeq { s.seq with config := { s.seq.config with rows := v } }) else (.badValue, s))
    | 2 => some (if 1 ≤ v ∧ v ≤ 4095 then
        (.ok, s.withSeq { s.seq with config := { s.seq.config with interval := v } }) else (.badValue, s))
    | 3 => some (if 1 ≤ v ∧ v ≤ 8 then
        (.ok, s.withSeq { s.seq with config := { s.seq.config with urgency := v } }) else (.badValue, s))
    | 4 => some (if 1 ≤ v ∧ v ≤ 63 then
        (.ok, s.withSeq { s.seq with config := { s.seq.config with window := v } }) else (.badValue, s))
    | _ => some (if timingInRange v then
        (.ok, s.withSeq { s.seq with
          config := { s.seq.config with tOpen := v / 256, tClose := v / 16 % 16, tBurst := v % 16 } })
        else (.badValue, s)) := by
  interval_cases f <;>
    simp only [storeArray, storeShape_changed h hs, storeShape_banks h hs, decide_eq_true_eq]

end

/-- Settles O19: STORE answers what the array page's owner answers, field by field. -/
theorem storeToArrayPage : Obligations.StoreToArrayPage := by
  intro s hp hsel x c f v answer stored
  have hpage : pageOf s.window.qsel = some .array := by rw [hsel]; rfl
  have answered {r : QRes} {t : State} (h : storeArray f v (windowAccess s) = some (r, t)) :
      exec .qcmdStore s = .next (setQres r t) := exec_qcmdStore_answered hp hpage h
  have noField (hf : 16 ≤ f) : answer .badField := exec_qcmdStore_noField hp hpage fun v => storeArray_noField hf v _
  clear_value f v
  refine ⟨fun hf hne => ?_, ?_, ?_, fun hf h => ?_, fun hf h hs => ?_, fun h hs => ?params⟩
  · by_cases hfield : f ≤ 14
    · exact answered (storeArray_readOnly hf hfield v _)
    · exact noField (by omega)
  · rintro rfl hv; exact answered (congrArg some (storePrescale_badValue hv _))
  · rintro rfl hlo hhi; exact answered (congrArg some (storePrescale_stored hlo hhi _))
  · exact answered (storeArray_badMode (s := windowAccess s) hf h v)
  · exact answered (storeArray_badState (s := windowAccess s) hf h hs v)
  case params =>
    have field (k : Nat) (hk : k ≤ 5) := storeArray_inOff (s := windowAccess s) h hs k v hk
    refine ⟨?_, ?_, ?_, ?_, ?_, ?_, ?_, ?_, ?_, ?_, fun a b d => ?_, ?_⟩
    · rintro rfl hv
      exact answered ((field 0 (by omega)).trans (congrArg some (if_pos (by simpa using hv))))
    · rintro rfl h4 h8
      exact answered ((field 0 (by omega)).trans (congrArg some (if_neg (by simp [h4, h8]))))
    · rintro rfl hv
      exact answered ((field 1 (by omega)).trans (congrArg some (if_pos (by simpa [or_assoc] using hv))))
    · rintro rfl h1 h2 h3
      exact answered ((field 1 (by omega)).trans (congrArg some (if_neg (by simp [h1, h2, h3]))))
    · rintro rfl hlo hhi
      exact answered ((field 2 (by omega)).trans (congrArg some (if_pos ⟨hlo, hhi⟩)))
    · rintro rfl hv
      exact answered ((field 2 (by omega)).trans (congrArg some (if_neg (by omega))))
    · rintro rfl hlo hhi
      exact answered ((field 3 (by omega)).trans (congrArg some (if_pos ⟨hlo, hhi⟩)))
    · rintro rfl hv
      exact answered ((field 3 (by omega)).trans (congrArg some (if_neg (by omega))))
    · rintro rfl hlo hhi
      exact answered ((field 4 (by omega)).trans (congrArg some (if_pos ⟨hlo, hhi⟩)))
    · rintro rfl hv
      exact answered ((field 4 (by omega)).trans (congrArg some (if_neg (by omega))))
    · rintro rfl hv ha ha' hb hb' hd hd'
      obtain ⟨ha₀, hb₀, hd₀⟩ := timing_digits hv hb' hd'
      refine answered ((field 5 (by omega)).trans ?_)
      dsimp only
      rw [if_pos ((timingInRange_iff v).mpr (by omega)), ha₀, hb₀, hd₀]
      rfl
    · rintro rfl hv
      exact answered ((field 5 (by omega)).trans (congrArg some (if_neg (by rw [timingInRange_iff]; omega))))

end Sys2Proof.Machine
end

section
/-! The queue commands (02 R28 to R33): ENABLE, HOLD, RESUME, CLEARFAULT and FLUSH. -/

namespace Sys2Proof.Machine

section
variable {q : QId} {s : State}

theorem answerCommand_refused (r : QRes) (y : Queue) : answerCommand q (some r) y s = setQres r s := rfl

theorem answerCommand_taken (y : Queue) : answerCommand q none y s = setQres .ok (s.setQueue q y) := rfl

theorem enableQueue_badMode (hr : s.modeCtl.mode ≠ .run) (hc : s.modeCtl.mode ≠ .config) :
    enableQueue q s = setQres .badMode s := by
  rw [enableQueue, enableRefusal, if_pos ⟨hr, hc⟩, answerCommand_refused]

theorem enableQueue_badState (hm : s.modeCtl.mode = .run ∨ s.modeCtl.mode = .config) (hx : (s.queue q).state ≠ .off) :
    enableQueue q s = setQres .badState s := by
  rw [enableQueue, enableRefusal, if_neg (by tauto), if_pos hx, answerCommand_refused]

theorem enableQueue_taken (hm : s.modeCtl.mode = .run ∨ s.modeCtl.mode = .config) (hx : (s.queue q).state = .off) :
    enableQueue q s = setQres .ok (s.setQueue q { s.queue q with state := .active }) := by
  rw [enableQueue, enableRefusal, if_neg (by tauto), if_neg (not_not.mpr hx), answerCommand_taken]

theorem holdQueue_badState (hx : (s.queue q).state ≠ .active) : holdQueue q s = setQres .badState s := by
  rw [holdQueue, if_neg hx, answerCommand_refused]

theorem holdQueue_taken (hx : (s.queue q).state = .active) :
    holdQueue q s = setQres .ok (s.setQueue q { s.queue q with state := .held }) := by
  rw [holdQueue, if_pos hx, answerCommand_taken]

theorem resumeQueue_badState (hx : (s.queue q).state ≠ .held) : resumeQueue q s = setQres .badState s := by
  rw [resumeQueue, if_neg hx, answerCommand_refused]

theorem resumeQueue_taken (hx : (s.queue q).state = .held) :
    resumeQueue q s = setQres .ok (s.setQueue q { s.queue q with state := .active }) := by
  rw [resumeQueue, if_pos hx, answerCommand_taken]

theorem clearFault_badState (hx : (s.queue q).state ≠ .faulted) : clearFault q s = setQres .badState s := if_neg hx

theorem clearFault_taken (hx : (s.queue q).state = .faulted) : clearFault q s
    = setQres .ok (drainLeft q (clearQueue .queueFault q (s.setQueue q (s.queue q).reinit))) := if_pos hx

end

section
variable {q : QId} {s : State} (hp : s.window.qres ≠ .pending) (hq : s.window.qsel.toNat = q.val)
include hp hq

theorem exec_qcmdEnable_queue : exec .qcmdEnable s = .next (settle (enableQueue q (windowAccess s))) :=
  congrArg (fun t => Host.Outcome.next (settle t)) (queueCommand_queue (s := windowAccess s) hp hq enableQueue)

theorem exec_qcmdHold_queue : exec .qcmdHold s = .next (settle (holdQueue q (windowAccess s))) :=
  congrArg (fun t => Host.Outcome.next (settle t)) (queueCommand_queue (s := windowAccess s) hp hq holdQueue)

theorem exec_qcmdResume_queue : exec .qcmdResume s = .next (settle (resumeQueue q (windowAccess s))) :=
  congrArg (fun t => Host.Outcome.next (settle t)) (queueCommand_queue (s := windowAccess s) hp hq resumeQueue)

theorem exec_qcmdFlush_queue : exec .qcmdFlush s = .next (settle (flushQueue q (windowAccess s))) :=
  congrArg (fun t => Host.Outcome.next (settle t)) (queueCommand_queue (s := windowAccess s) hp hq flushQueue)

theorem exec_qcmdClearfault_queue : exec .qcmdClearfault s = .next (clearFault q (windowAccess s)) :=
  congrArg Host.Outcome.next (queueCommand_queue (s := windowAccess s) hp hq clearFault)

end

theorem queue_setQueue_of_ne {s : State} {q r : QId} (h : r ≠ q) (x : Queue) : (s.setQueue q x).queue r = s.queue r := by
  rw [queue_setQueue, if_neg h.symm]

/-- Settles O20: each command by the queue's state, and CLEARFAULT field by field of the reinitialised descriptor. -/
theorem queueStateCommands : Obligations.QueueStateCommands := by
  refine ⟨fun q s hp hq => ?answered, fun q s hp hq => ?clearFault⟩
  case answered =>
    rw [exec_qcmdEnable_queue hp hq, exec_qcmdHold_queue hp hq, exec_qcmdResume_queue hp hq]
    intro x m refused becomes
    have next {t u : State} (h : t = u) : Host.Outcome.next (settle t) = (.next (settle u) : Outcome) := by rw [h]
    refine ⟨fun hr hc => ?_, fun hm hx => ?_, fun hm hx => ?_, fun hx => ?_, fun hx => ?_, fun hx => ?_, fun hx => ?_⟩
    · exact next (enableQueue_badMode (s := windowAccess s) hr hc)
    · exact next (enableQueue_badState (s := windowAccess s) hm hx)
    · exact next (enableQueue_taken (s := windowAccess s) hm hx)
    · exact next (holdQueue_badState (s := windowAccess s) hx)
    · exact next (holdQueue_taken (s := windowAccess s) hx)
    · exact next (resumeQueue_badState (s := windowAccess s) hx)
    · exact next (resumeQueue_taken (s := windowAccess s) hx)
  case clearFault =>
    rw [exec_qcmdClearfault_queue hp hq]
    intro x
    refine ⟨fun hx => congrArg Host.Outcome.next (clearFault_badState (s := windowAccess s) hx), fun hx => ?_⟩
    rw [clearFault_taken (s := windowAccess s) hx]
    refine ⟨_, rfl, rfl, ?_⟩
    have hqueue : (setQres .ok (drainLeft q (clearQueue .queueFault q
        ((windowAccess s).setQueue q ((windowAccess s).queue q).reinit)))).queue q = x.reinit := queue_setQueue_self ..
    rw [hqueue]
    exact ⟨rfl, rfl, rfl, rfl, rfl, rfl, rfl, rfl, rfl, rfl, rfl, rfl, rfl, rfl, fun r hr => queue_setQueue_of_ne hr _, rfl, rfl,
      rfl, rfl, rfl, rfl, rfl, rfl, rfl, rfl⟩

/-! ### FLUSH (02 R32) -/

section
variable {q : QId} {s : State}

theorem flushQueue_refused {r : QRes} (h : flushRefusal s.modeCtl.mode (s.queue q) = some r) :
    flushQueue q s = setQres r s := by
  rw [flushQueue, h]

theorem flushQueue_taken (h : flushRefusal s.modeCtl.mode (s.queue q) = none) : flushQueue q s
    = if (s.queue q).blocks = 0 then setQres .ok s else beginWork q .flush (setQres .pending s) := by
  rw [flushQueue, h]

theorem finishWork_flush (h : (s.queue q).work = .flush) : finishWork q s
    = setQres .ok (drainLeft q (s.setQueue q (flushEffect (s.queue q)).unheld)) := by
  unfold finishWork
  dsimp only
  rw [h]

theorem wholeChain_some {x : Queue} {h : Pos} {b : Nat} (hh : x.head = some h) (hb : x.tailBlock = some b)
    (hn : x.blocks ≠ 0) : wholeChain x = some { first := h.block, last := b, count := x.blocks } := by
  unfold wholeChain
  rw [hh, hb]
  exact if_neg hn

/-- 02 R24: with no open record no link word is owed. -/
theorem owedPosted_closed (h : (s.queue q).openRec = none) : owedPosted s q = false := by
  rw [← Bool.not_eq_true, owedPosted_iff]
  rintro ⟨g, p, -, ⟨ho, -⟩, -⟩
  exact absurd (h.symm.trans ho) (by simp)

end

/-- Settles O22: refused by the first condition that applies, answered at once on an empty queue; else the flush is the queue's
work, which the pool takes or which waits there. -/
theorem flushAnswers : Obligations.FlushAnswers := by
  intro q s hp hq
  rw [exec_qcmdFlush_queue hp hq]
  intro x m busy answered u
  have next {t v : State} (h : t = v) : Host.Outcome.next (settle t) = (.next (settle v) : Outcome) := by rw [h]
  have refuses {r : QRes} (h : flushRefusal m x = some r) : .next (settle (flushQueue q (windowAccess s))) = answered r :=
    next (flushQueue_refused (s := windowAccess s) h)
  have none_of (hf : m ≠ .formatting) (hh : m ≠ .halted) (hx : x.state ≠ .faulted) (hb : ¬busy) :
      flushRefusal m x = none := by
    rw [flushRefusal, if_neg (by tauto), if_neg hx, if_neg hb]
  refine ⟨fun hm => ?_, fun hf hh hx => ?_, fun hf hh hx hb => ?_, fun hf hh hx hb hn => ?_,
    fun h b hf hh hx hb hn hhead htail => ?blocks⟩
  · exact refuses (if_pos hm)
  · exact refuses (by rw [flushRefusal, if_neg (by tauto), if_pos hx])
  · exact refuses (by rw [flushRefusal, if_neg (by tauto), if_neg hx, if_pos hb])
  · exact next ((flushQueue_taken (s := windowAccess s) (none_of hf hh hx hb)).trans (if_pos hn))
  case blocks =>
    intro g
    have hu : u.queue q = { x with work := .flush } := queue_setQueue_self ..
    have hbegin : flushQueue q (windowAccess s) = tryWork q u :=
      (flushQueue_taken (s := windowAccess s) (none_of hf hh hx hb)).trans (if_neg hn)
    have hposted : owedPosted u q = false := by
      refine owedPosted_closed ?_
      rw [hu]
      exact not_not.mp fun h => hb (.inr (.inl h))
    have hsegment : workSegment u q = some g := by
      unfold workSegment
      rw [hu]
      exact wholeChain_some hhead htail hn
    rw [hbegin]
    refine ⟨fun ht => next ?_, fun ht => next ?_⟩
    · rw [tryWork_taken hposted hsegment ht, finishWork_flush (by rw [poolPut_queue, hu]), poolPut_queue, hu]
      rfl
    · rw [tryWork_waits hposted hsegment ht, hu]

end Sys2Proof.Machine
end

section
/-! The Mode Controller (09): the requests, the way out of HALTED, the completion of a stop; and the enables (10 R164). -/

namespace Sys2Proof.Machine

/-! ### RUN, STOP and ABORT (09 R150 to R153) -/

theorem not_inService_iff (x : SeqState) : inService x = false ↔ x = .off ∨ x = .starting ∨ x = .fault := by
  cases x <;> decide

theorem exec_modeRun (s : State) : exec .modeRun s = .next (requestRun (windowAccess s)) := rfl

theorem exec_modeStop (s : State) : exec .modeStop s = .next (settle (requestStop (windowAccess s))) := rfl

theorem exec_modeAbort (s : State) : exec .modeAbort s = .next (settle (requestAbort (windowAccess s))) := rfl

theorem exec_modeConfig (s : State) : exec .modeConfig s = .next (requestConfig (windowAccess s)) := rfl

theorem exec_modeUndefinedCode {code : Byte} (h : modeUndefined code = true) (s : State) :
    exec (.modeUndefinedCode code) s = .next (setModeResult .badCode (windowAccess s)) := if_pos h

section
variable {s : State}

theorem requestRun_badMode (h : s.modeCtl.mode ≠ .config) : requestRun s = setModeResult .badMode s := if_pos h

theorem requestRun_badState (h : s.modeCtl.mode = .config)
    (hs : inService s.seq.state = false ∨ s.pool.state ≠ .formatted) : requestRun s = setModeResult .badState s := by
  unfold requestRun
  rw [if_neg (not_not.mpr h), if_pos (by simpa using hs)]

theorem requestRun_taken (h : s.modeCtl.mode = .config) (hs : inService s.seq.state = true)
    (hp : s.pool.state = .formatted) : requestRun s = modeTaken .run none s := by
  unfold requestRun
  rw [if_neg (not_not.mpr h), if_neg (by simp [hs, hp])]

theorem requestStop_taken (h : s.modeCtl.mode = .run) : requestStop s = modeTaken .stopping (some .gentle) s := if_pos h

theorem requestStop_badMode (h : s.modeCtl.mode ≠ .run) : requestStop s = setModeResult .badMode s := if_neg h

theorem requestAbort_running (h : s.modeCtl.mode = .run) :
    requestAbort s = abortActions (modeTaken .stopping (some .abort) s) := by
  simp only [requestAbort, h]

theorem requestAbort_stopping (h : s.modeCtl.mode = .stopping) (hs : s.modeCtl.stop ≠ some .abort) :
    requestAbort s = abortActions (modeTaken .stopping (some .abort) s) := by
  unfold requestAbort
  rw [h]
  split
  · rfl
  · next hstop => exact absurd hstop hs
  · rfl
  all_goals next hm => cases hm

theorem requestAbort_again (h : s.modeCtl.mode = .stopping) (hs : s.modeCtl.stop = some .abort) :
    requestAbort s = setModeResult .ok s := by
  simp only [requestAbort, h, hs]

theorem requestAbort_badMode (h : s.modeCtl.mode = .config ∨ s.modeCtl.mode = .formatting ∨ s.modeCtl.mode = .halted) :
    requestAbort s = setModeResult .badMode s := by
  rcases h with h | h | h <;> simp only [requestAbort, h]

end

/-- Settles O23, by the mode, and for RUN by the sequencer and the pool. -/
theorem modeRequestsAnswers : Obligations.ModeRequestsAnswers := by
  have next {t u : State} (h : t = u) : Host.Outcome.next t = (.next u : Outcome) := congrArg _ h
  have settled {t u : State} (h : t = u) : Host.Outcome.next (settle t) = (.next (settle u) : Outcome) := by rw [h]
  refine ⟨fun s => ?run, fun code s => ?stop⟩
  case run =>
    rw [exec_modeRun]
    refine ⟨fun h => next (requestRun_badMode (s := windowAccess s) h), fun h hs => ?_, fun h hoff hstart hfault hp => ?_⟩
    · refine next (requestRun_badState (s := windowAccess s) h ?_)
      rw [not_inService_iff]
      tauto
    · refine next (requestRun_taken (s := windowAccess s) h ?_ hp)
      rw [← Bool.not_eq_false, not_inService_iff]
      tauto
  case stop =>
    rw [exec_modeStop, exec_modeAbort]
    refine ⟨fun h => ?_, fun h => ?_, fun h => ?_, fun h hs => ?_, fun h hs => ?_, fun h => ?_,
      fun h => exec_modeUndefinedCode h s⟩
    · exact settled (requestStop_taken (s := windowAccess s) h)
    · exact settled (requestStop_badMode (s := windowAccess s) h)
    · exact settled (requestAbort_running (s := windowAccess s) h)
    · exact settled (requestAbort_stopping (s := windowAccess s) h hs)
    · exact settled (requestAbort_again (s := windowAccess s) h hs)
    · exact settled (requestAbort_badMode (s := windowAccess s) h)

/-! ### CONFIG (09 R157) -/

theorem reinitQueues_queue (s : State) (q : QId) : (reinitQueues s).queue q = (s.queue q).reinit := Vector.getElem_map ..

theorem reinitQueues_linkKept (s : State) : linkKept (reinitQueues s).link = linkKept s.link := by
  change linkKept (if s.link.drainQ.isSome then retryCleared s.link else s.link) = _
  split <;> rfl

/-- 02 R39: no queue is FAULTED any more, and none is at its watermark. -/
theorem isPending_reinitQueues (s : State) (c : Cause) : c.isPending (reinitQueues s) = (match c with
    | .queue .queueFault _ => false
    | .watermark _ => false
    | c => c.isPending s) := by
  cases c with
  | global => rfl
  | queue k q =>
    cases k with
    | queueFault => exact Vector.getElem_replicate ..
    | queueDiscard => rfl
    | nonempty => rfl
  | watermark q =>
    change ((reinitQueues s).queue q).atWatermark = false
    rw [← Bool.not_eq_true, reinitQueues_queue, Queue.atWatermark_iff]
    exact fun h => h.1 (Nat.le_zero.mp h.2)

theorem isPending_leaveHalted (s : State) (c : Cause) : c.isPending (leaveHalted s) = (match c with
    | .global .arrayFault | .global .refreshOverrun => false
    | .queue .queueFault _ => false
    | .watermark _ => false
    | c => c.isPending s) := by
  have hclears : c.isPending (leaveHalted s) = c.isPending (clear .refreshOverrun (clear .arrayFault
      (reinitQueues (poolReset (arrayUnknown (s.withSeq s.seq.switchedOff)))))) := by cases c <;> rfl
  rw [hclears, isPending_clear, isPending_clear, isPending_reinitQueues]
  cases c with
  | global g => cases g <;> rfl
  | queue k q => cases k <;> rfl
  | watermark q => rfl

/-- Settles O24: refused, or the way out of HALTED field by field. -/
theorem modeConfigAnswers : Obligations.ModeConfigAnswers := by
  intro s
  rw [exec_modeConfig]
  refine ⟨fun h => congrArg Host.Outcome.next (if_neg h), fun h => ?taken⟩
  case taken =>
    have hleave : requestConfig (windowAccess s) = leaveHalted (windowAccess s) := if_pos h
    rw [hleave]
    refine ⟨_, rfl, rfl, rfl, rfl, fun q => ?queue, fun c => ⟨rfl, isPending_leaveHalted (windowAccess s) c⟩, rfl, rfl,
      reinitQueues_linkKept _, rfl, rfl, rfl, rfl⟩
    case queue =>
      have hqueue : (leaveHalted (windowAccess s)).queue q = (s.queue q).reinit := reinitQueues_queue _ q
      rw [hqueue]
      exact ⟨rfl, rfl, rfl, rfl, rfl, rfl, rfl, rfl, rfl, rfl, rfl, rfl, rfl, rfl⟩

/-! ### The completion of a stop (09 R154) -/

theorem stopComplete_iff (s : State) : stopComplete s = true ↔
    s.push.state = .idle ∧ s.pop.state = .idle ∧ s.pop.r.unwanted = false
      ∧ (s.link.state = .off ∨ s.link.state = .fault) ∧ s.link.out.state = .idle ∧ s.link.inb.state = .idle
      ∧ s.link.out.r.unwanted = false ∧ s.pool.release = [] ∧ s.pool.waiting = [] := by
  simp only [stopComplete, Bool.and_eq_true, Bool.or_eq_true, beq_iff_eq, Bool.not_eq_true', List.isEmpty_iff, and_assoc]

/-- Settles O25: a stop completes exactly while stopping with nothing left in flight. -/
theorem stopCompletes : Obligations.StopCompletes := by
  intro s still
  have hstill : still ↔ s.modeCtl.mode = .stopping ∧ stopComplete s = true := and_congr_right' (stopComplete_iff s).symm
  exact ⟨fun h => if_pos (hstill.mp h), fun h => if_neg (mt hstill.mpr h)⟩

/-! ### The enables (10 R164) -/

/-- 11 Table 11-2: EVEN keeps bits 7 and 4 to 0. -/
theorem evenKept_getLsbD {i : Nat} (h : i < 5 ∨ i = 7) (v : Byte) : (v &&& 0x9F).getLsbD i = v.getLsbD i := by
  have hbit : (0x9F : Byte).getLsbD i = true := by
    rcases h with h | rfl
    · interval_cases i <;> rfl
    · rfl
  rw [BitVec.getLsbD_and, hbit, Bool.and_true]

theorem isPending_writeEven (v : Byte) (s : State) (c : Cause) : c.isPending (writeEven v s) = c.isPending s := by
  cases c with
  | queue k => cases k <;> rfl
  | _ => rfl

theorem isPending_windowAccess (s : State) (c : Cause) : c.isPending (windowAccess s) = c.isPending s := by
  cases c with
  | queue k => cases k <;> rfl
  | _ => rfl

/-- Settles O30: a write keeps the six enable bits, a read drives them, and none is set after reset. -/
theorem evenHoldsEnables : Obligations.EvenHoldsEnables := by
  refine ⟨fun v s => ⟨writeEven v (windowAccess s), rfl, rfl, fun i hi => evenKept_getLsbD (.inl hi) v,
    evenKept_getLsbD (.inr rfl) v, fun c => ?_⟩, fun _ => rfl, rfl⟩
  rw [isPending_writeEven, isPending_windowAccess]

end Sys2Proof.Machine
end

section
/-! The Record Link's commands, its arbiter, LREQ's edges and the link timer (06 R107 to R110, R120). -/

namespace Sys2Proof.Machine

theorem settle_linkKept (s : State) : linkKept (settle s).link = linkKept s.link := (settle_reaction s).link

/-! ### START (06 R107) -/

theorem exec_lcmdStart (s : State) : exec .lcmdStart s = .next (settle (linkStart (windowAccess s))) := rfl

theorem exec_lcmdStop (s : State) : exec .lcmdStop s = .next (settle (linkStop (windowAccess s))) := rfl

theorem exec_lcmdUndefinedCode {code : Byte} (h : lcmdUndefined code = true) (s : State) :
    exec (.lcmdUndefinedCode code) s = .next (setLinkResult .badCode (windowAccess s)) := if_pos h

/-- 06 R107: the contexts are at rest and no read is outstanding. -/
def linkQuiet (l : Link) : Prop := l.out.state = .idle ∧ l.inb.state = .idle ∧ l.out.r.unwanted = false

/-- 06 R107: the queues named are bound to the link. -/
def linkBound (s : State) : Prop :=
  (∀ q, s.link.drainQ = some q → (s.queue q).consumer = .link) ∧ (∀ q, s.link.fillQ = some q → (s.queue q).producer = .link)

theorem not_linkQuiet_iff (l : Link) :
    ¬linkQuiet l ↔ l.out.state ≠ .idle ∨ l.inb.state ≠ .idle ∨ l.out.r.unwanted = true := by
  simp only [linkQuiet, not_and_or, Bool.not_eq_false, ne_eq]

/-- A queue named in an optional parameter, of which something does not hold. -/
theorem any_named_iff {o : Option QId} {p : QId → Bool} : o.any p = true ↔ ¬∀ q, o = some q → p q = false := by
  rw [Option.any_eq_true]
  push Not
  simp only [ne_eq, Bool.not_eq_false]

theorem not_linkBound_iff (s : State) : ¬linkBound s ↔ s.link.drainQ.any (fun q => (s.queue q).consumer != .link) = true
    ∨ s.link.fillQ.any (fun q => (s.queue q).producer != .link) = true := by
  simp only [linkBound, not_and_or, any_named_iff, bne_eq_false_iff_eq]

theorem startAnswer_eq_badMode {s : State} (h : s.modeCtl.mode ≠ .run) : startAnswer s = .badMode := if_pos h

section
variable {s : State} (h : s.modeCtl.mode = .run)
include h

theorem startAnswer_eq_badState (ho : s.link.state ≠ .off) : startAnswer s = .badState := by
  unfold startAnswer
  rw [if_neg (not_not.mpr h), if_pos ho]

variable (ho : s.link.state = .off)
include ho

theorem startAnswer_eq_busy (hq : ¬linkQuiet s.link) : startAnswer s = .busy := by
  unfold startAnswer
  rw [if_neg (not_not.mpr h), if_neg (not_not.mpr ho), if_pos ((not_linkQuiet_iff _).mp hq)]

variable (hq : linkQuiet s.link)
include hq

theorem startAnswer_eq_badBinding (hb : ¬linkBound s) : startAnswer s = .badBinding := by
  unfold startAnswer
  rw [if_neg (not_not.mpr h), if_neg (not_not.mpr ho), if_neg (fun hn => (not_linkQuiet_iff _).mpr hn hq),
    if_pos ((not_linkBound_iff s).mp hb)]

theorem startAnswer_eq_started (hb : linkBound s) : startAnswer s = .started := by
  unfold startAnswer
  rw [if_neg (not_not.mpr h), if_neg (not_not.mpr ho), if_neg (fun hn => (not_linkQuiet_iff _).mpr hn hq),
    if_neg (fun hn => (not_linkBound_iff s).mpr hn hb)]

end

theorem linkStart_refused {s : State} {r : LinkResult} (h : startAnswer s = r) (hr : r ≠ .started) :
    linkStart s = setLinkResult r s := by
  rw [linkStart, h, if_neg hr]

theorem linkStart_started {s : State} (h : startAnswer s = .started) :
    linkStart s = s.withLink { s.link with state := .idle, turn := .forward, grants := 0, last := .started } := if_pos h

/-! ### What a STOP or a timeout abandons (06 R108, R120) -/

section
variable (s : State)

/-- Abandoning an outbound record touches the outbound context alone, beside the claims. -/
theorem outAbandon_link : (outAbandon s).link = { s.link with out := (outAbandon s).link.out } := by
  unfold outAbandon
  split
  case h_3 | h_4 =>
    dsimp only
    split <;> rfl
  all_goals rfl

theorem outAbandon_events : (outAbandon s).events = s.events := by
  unfold outAbandon
  split
  case h_3 | h_4 =>
    dsimp only
    split <;> rfl
  all_goals rfl

theorem withdrawCommit_events : (withdrawCommit s).events = s.events := by
  unfold withdrawCommit
  split <;> rfl

theorem inAbandon_events : (inAbandon s).events = s.events := by
  unfold inAbandon
  split
  case h_1 | h_2 => exact withdrawCommit_events s
  all_goals rfl

/-- Answering the held byte changes the lines, the byte in progress, the timer and the inbound context. -/
theorem ackHeld_eq (l : Link) : ackHeld l = { l with
    lines := (ackHeld l).lines, receive := (ackHeld l).receive, timer := (ackHeld l).timer
    inb := { l.inb with held := none } } := by
  unfold ackHeld
  split <;> rfl

/-- Abandoning an inbound record leaves of the link what the lines' rest does not reset. -/
theorem inAbandon_link : (inAbandon s).link = { s.link with
    lines := (inAbandon s).link.lines, receive := (inAbandon s).link.receive, timer := (inAbandon s).link.timer
    inb := (inAbandon s).link.inb } := by
  have hreject : (inboundReject s).link = { s.link with
      lines := (inboundReject s).link.lines, receive := (inboundReject s).link.receive
      timer := (inboundReject s).link.timer, inb := (inboundReject s).link.inb } := by
    simp only [inboundReject, inboundCancel, withLink_link, withdrawCommit_link]
    rw [ackHeld_eq s.link]
  unfold inAbandon
  split
  case h_1 | h_2 => exact hreject
  all_goals rfl

end

section
variable {s : State}

theorem outAbandon_busy (h : s.link.out.state = .loading ∨ s.link.out.state = .streaming) :
    (outAbandon s).link.out = { s.link.out.resting with
      r := { s.link.out.r.released with unwanted := readerUnwanted .link s } } := by
  unfold outAbandon
  rcases h with h | h <;> rw [h] <;> dsimp only <;> split <;> rfl

theorem outAbandon_still (h : s.link.out.state = .settling ∨ s.link.out.state = .idle) : outAbandon s = s := by
  unfold outAbandon
  rcases h with h | h <;> rw [h]

theorem inAbandon_cancelled (h : s.link.inb.state = .filling ∨ s.link.inb.state = .committing) :
    inAbandon s = inboundReject s := by
  unfold inAbandon
  rcases h with h | h <;> rw [h]

theorem inAbandon_discarding (h : s.link.inb.state = .discarding) :
    inAbandon s = s.withLink { s.link with inb := Inbound.reset } := by
  unfold inAbandon
  rw [h]

theorem inAbandon_still (h : s.link.inb.state = .cancelling ∨ s.link.inb.state = .idle) : inAbandon s = s := by
  unfold inAbandon
  rcases h with h | h <;> rw [h]

theorem ackHeld_held (l : Link) : (ackHeld l).inb.held = none := by
  unfold ackHeld
  split <;> rfl

theorem inboundReject_inb (s : State) : (inboundReject s).link.inb.state = .cancelling
    ∧ (inboundReject s).link.inb.w.buf = [] ∧ (inboundReject s).link.inb.held = none := ⟨rfl, rfl, ackHeld_held _⟩

end

/-- The link with both records abandoned. -/
def abandoned (s : State) : State := inAbandon (outAbandon s)

theorem abandoned_link (s : State) : (abandoned s).link = { s.link with
    lines := (abandoned s).link.lines, receive := (abandoned s).link.receive, timer := (abandoned s).link.timer
    inb := (abandoned s).link.inb, out := (outAbandon s).link.out } := by
  unfold abandoned
  rw [inAbandon_link, outAbandon_link]

theorem outAbandon_inb (s : State) : (outAbandon s).link.inb = s.link.inb := by rw [outAbandon_link]

theorem abandoned_events (s : State) : (abandoned s).events = s.events :=
  (inAbandon_events _).trans (outAbandon_events s)

theorem abandoned_inb_cancelled {s : State} (h : s.link.inb.state = .filling ∨ s.link.inb.state = .committing) :
    (abandoned s).link.inb.state = .cancelling ∧ (abandoned s).link.inb.w.buf = []
      ∧ (abandoned s).link.inb.held = none := by
  unfold abandoned
  rw [inAbandon_cancelled (by rwa [outAbandon_inb])]
  exact inboundReject_inb _

theorem abandoned_inb_discarding {s : State} (h : s.link.inb.state = .discarding) :
    (abandoned s).link.inb = Inbound.reset := by
  unfold abandoned
  rw [inAbandon_discarding (by rwa [outAbandon_inb])]
  rfl

theorem abandoned_inb_still {s : State} (h : s.link.inb.state = .cancelling ∨ s.link.inb.state = .idle) :
    (abandoned s).link.inb = s.link.inb := by
  unfold abandoned
  rw [inAbandon_still (by rwa [outAbandon_inb]), outAbandon_inb]

theorem linkStop_off {s : State} (h : s.link.state = .off) : linkStop s = setLinkResult .stopped s := if_pos h

theorem linkStop_link {s : State} (h : s.link.state ≠ .off) :
    (linkStop s).link = { dropLines (abandoned s).link with state := .off, last := .stopped } := by
  rw [linkStop, if_neg h]
  rfl

/-- Settles O32: START by its conditions in order; STOP by what it abandons and the lines' rest. -/
theorem linkCommandsAnswers : Obligations.LinkCommandsAnswers := by
  intro code s l refused quiet bound e
  rw [exec_lcmdStart, exec_lcmdStop]
  have settled {t u : State} (h : t = u) : Host.Outcome.next (settle t) = (.next (settle u) : Outcome) := by rw [h]
  refine ⟨fun h => ?_, fun h ho => ?_, fun h ho hq => ?_, fun h ho hq hb => ?_, fun h ho hq hb => ?_, fun h => ?_,
    fun h => ⟨rfl, ?stop⟩, fun h => exec_lcmdUndefinedCode h s⟩
  · exact settled (linkStart_refused (startAnswer_eq_badMode (s := windowAccess s) h) (by decide))
  · exact settled (linkStart_refused (startAnswer_eq_badState (s := windowAccess s) h ho) (by decide))
  · exact settled (linkStart_refused (startAnswer_eq_busy (s := windowAccess s) h ho hq) (by decide))
  · exact settled (linkStart_refused (startAnswer_eq_badBinding (s := windowAccess s) h ho hq hb) (by decide))
  · exact settled (linkStart_started (startAnswer_eq_started (s := windowAccess s) h ho hq hb))
  · exact settled (linkStop_off (s := windowAccess s) h)
  case stop =>
    have he : e.link = _ := linkStop_link (s := windowAccess s) h
    rw [he]
    refine ⟨rfl, rfl, rfl, rfl, rfl, rfl, ?_, ?_, ?_, fun hout => ?_, fun hout => ?_, ?_, ?_, ?_⟩
    · rw [abandoned_link]; rfl
    · rw [abandoned_link]; rfl
    · rw [abandoned_link]; rfl
    · rw [abandoned_link, outAbandon_busy (s := windowAccess s) hout]
      exact ⟨rfl, rfl, rfl⟩
    · rw [abandoned_link, outAbandon_still (s := windowAccess s) hout]
      rfl
    · exact abandoned_inb_cancelled (s := windowAccess s)
    · exact abandoned_inb_discarding (s := windowAccess s)
    · exact abandoned_inb_still (s := windowAccess s)

/-! ### The arbiter (06 R109) -/

/-- 06 R109: the drain queue has a record to send and lets the link take it. -/
def readyQueue (s : State) (q : QId) : Prop :=
  s.link.drainQ = some q ∧ (s.queue q).state = .active ∧ (s.queue q).consumer = .link ∧ (s.queue q).records ≠ 0
    ∧ (s.queue q).pin = none ∧ (s.queue q).held = false

theorem linkReady_iff (s : State) : linkReady s = true ↔ ∃ q, readyQueue s q := by
  unfold linkReady readyQueue
  cases h : s.link.drainQ with
  | none => simp
  | some q =>
    simp only [Bool.and_eq_true, beq_iff_eq, bne_iff_ne, Option.isNone_iff_eq_none, Bool.not_eq_true', Option.some.injEq,
      exists_eq_left', and_assoc]

theorem linkReady_false_iff (s : State) : linkReady s = false ↔ ∀ q, ¬readyQueue s q := by
  rw [← Bool.not_eq_true, linkReady_iff, not_exists]

section
variable {s : State}

theorem arbiter_notRun (h : s.modeCtl.mode ≠ .run) : arbiter s = some (s.withLink { s.link with state := .off }) := if_pos h

variable (h : s.modeCtl.mode = .run)
include h

theorem arbiter_sends (hready : linkReady s = true) (hturn : s.link.lreq = false ∨ s.link.turn = .forward) :
    arbiter s = some (beginSend s) := by
  unfold arbiter
  rw [if_neg (not_not.mpr h), if_pos ⟨hready, hturn⟩]

theorem arbiter_grants (hlreq : s.link.lreq = true) (hturn : linkReady s = false ∨ s.link.turn = .reverse) :
    arbiter s = some (s.withLink (grant s.link)) := by
  unfold arbiter
  rw [if_neg (not_not.mpr h), if_neg, if_pos ⟨hlreq, by simpa using hturn⟩]
  rintro ⟨hready, hlow | hforward⟩
  · simp [hlreq] at hlow
  · rcases hturn with hturn | hturn
    · simp [hready] at hturn
    · simp [hforward] at hturn

theorem arbiter_rests (hlreq : s.link.lreq = false) (hready : linkReady s = false) : arbiter s = none := by
  unfold arbiter
  rw [if_neg (not_not.mpr h), if_neg (by simp [hready]), if_neg (by simp [hlreq])]

end

/-- 06 R105: the retry count is that of the record h. -/
def retryOf (l : Link) (h : Pos) : Link :=
  if l.retryRecord = some h then l else { l with retryCount := 0, retryRecord := some h }

theorem retryOf_record (l : Link) (h : Pos) : (retryOf l h).retryRecord = some h := by
  unfold retryOf
  split
  · assumption
  · rfl

theorem retryOf_count (l : Link) (h : Pos) :
    (retryOf l h).retryCount = if l.retryRecord = some h then l.retryCount else 0 := by
  unfold retryOf
  split <;> rfl

theorem beginSend_eq {s : State} {q : QId} {h : Pos} (hq : s.link.drainQ = some q) (hh : (s.queue q).head = some h) :
    beginSend s = (s.setQueue q (pinned .link (s.queue q))).withLink { retryOf s.link h with
      state := .sending, out := (retryOf s.link h).out.taking q (s.queue q) h } := by
  simp only [beginSend, hq, hh, Option.getD_some, retryOf, setQueue_link]

/-- Settles O33: the arbiter by the mode, LREQ, the turn and the ready queue. -/
theorem arbiterActsByCase : Obligations.ArbiterActsByCase := by
  intro s l ready
  refine ⟨fun h => arbiter_notRun h, fun q b h hready hb hturn => ⟨_, arbiter_sends h ((linkReady_iff s).mpr ⟨q, hready⟩) hturn,
    ?send⟩, fun h hlreq hturn => ⟨_, arbiter_grants h hlreq ?grant, rfl, rfl, rfl⟩,
    fun h hlreq hnone => arbiter_rests h hlreq ((linkReady_false_iff s).mpr hnone)⟩
  case send =>
    rw [beginSend_eq hready.1 hb]
    exact ⟨rfl, queue_setQueue_self .., rfl, rfl, rfl, rfl, rfl, retryOf_record .., retryOf_count ..⟩
  case grant => exact hturn.imp_left (linkReady_false_iff s).mpr

/-! ### LREQ's edges and the expiries of the link timer (06 R109 to R111, R120) -/

theorem exec_lreqRise (s : State) : exec .lreqRise s = .next (settle (lreqRise s)) := rfl

theorem exec_lreqFall (s : State) : exec .lreqFall s = .next (settle (lreqFall s)) := rfl

theorem exec_linkTimeout (s : State) : exec .linkTimeout s = .next (settle (timedOut s)) := rfl

theorem exec_idleGrantExpiry (s : State) : exec .idleGrantExpiry s = .next (settle (idleGrantOver s)) := rfl

theorem settle_lreq (s : State) : (settle s).link.lreq = s.link.lreq := congrArg (·.2.2.1) (settle_linkKept s)

theorem settle_sent (s : State) : (settle s).link.sent = s.link.sent := congrArg (·.2.2.2.1) (settle_linkKept s)

theorem settle_rejects (s : State) : (settle s).link.rejects = s.link.rejects := congrArg (·.2.2.2.2) (settle_linkKept s)

section
variable {s : State}

theorem timedOut_runs {t : LinkTimer} (h : s.link.timer = some t) (hu : t.use ≠ .idleGrant) : timedOut s = linkTimeout s := by
  simp only [timedOut, h, hu, if_false]

theorem timedOut_idle (h : ∀ t, s.link.timer = some t → t.use = .idleGrant) : timedOut s = s := by
  unfold timedOut
  split
  · next t ht => exact if_pos (h t ht)
  · rfl

theorem idleGrantOver_reclaims {t : LinkTimer} (h : s.link.timer = some t) (hu : t.use = .idleGrant)
    (hs : s.link.state = .granted) : idleGrantOver s = s.withLink { s.link with
      lines := { s.link.lines with lgnt := false }, state := .reclaiming, timer := none, tooLate := false
      lreqFell := false } := by
  simp only [idleGrantOver, h, hu, hs, reclaim, stopIdleGrant, stopTimer, and_self, if_true]

theorem idleGrantOver_idle (h : ∀ t, s.link.timer = some t → t.use ≠ .idleGrant ∨ s.link.state ≠ .granted) :
    idleGrantOver s = s := by
  unfold idleGrantOver
  split
  · next t ht => exact if_neg (not_and_or.mpr (h t ht))
  · rfl

end

theorem linkTimeout_link (s : State) : (linkTimeout s).link
    = { dropLines (abandoned (raise .linkTimeout s)).link with state := .fault, last := .timeout } := rfl

theorem linkTimeout_pending (s : State) : (Cause.global .linkTimeout).isPending (linkTimeout s) = true := by
  change pendingGlobal (abandoned (raise .linkTimeout s)).events .linkTimeout = true
  rw [abandoned_events]
  exact (isPending_raise .linkTimeout s (.global .linkTimeout)).trans (by simp)

/-- Settles O34: LREQ's level follows its edges; the expiries by the timer that runs. -/
theorem lreqEdgesAndTimers : Obligations.LreqEdgesAndTimers := by
  intro s l e
  have settled {t u : State} (h : t = u) : Host.Outcome.next (settle t) = (.next (settle u) : Outcome) := by rw [h]
  rw [exec_lreqRise, exec_lreqFall, exec_linkTimeout, exec_idleGrantExpiry]
  refine ⟨⟨_, rfl, rfl, settle_lreq _⟩, ⟨_, rfl, rfl, settle_lreq _⟩,
    fun t ht hu => ⟨settled (timedOut_runs ht hu), ?timeout⟩, fun t ht hu hs => settled (idleGrantOver_reclaims ht hu hs),
    fun h => settled (timedOut_idle h), fun h => settled (idleGrantOver_idle h)⟩
  case timeout =>
    rw [show e.link = _ from linkTimeout_link s]
    refine ⟨rfl, rfl, rfl, rfl, ?_, ?_, linkTimeout_pending s, fun hout => ?_, fun hin => ?_⟩
    · rw [abandoned_link]; rfl
    · rw [abandoned_link]; rfl
    · rw [abandoned_link, outAbandon_busy (s := raise .linkTimeout s) hout]
      rfl
    · exact (abandoned_inb_cancelled (s := raise .linkTimeout s) hin).1

end Sys2Proof.Machine
end

section
/-! The bytes of the Record Link: the sender's handshake (06 R100, R114, R115) and the receiver's (06 R101, R110, R111, R116 to
R119). -/

namespace Sys2Proof.Machine

/-- Two states that agree settle alike. -/
theorem next_settle_congr {t u : State} (h : t = u) : (.next (settle t) : Outcome) = .next (settle u) := by rw [h]

/-! ### The handshake as sender (06 R100, R114, R115) -/

theorem exec_lackRise (s : State) : exec .lackRise s = .next (settle (lackRise s)) := rfl

theorem exec_lackFall (s : State) : exec .lackFall s = .next (settle (lackFall s)) := rfl

theorem exec_peerAccept (s : State) : exec .peerAccept s = .next (settle (peerAccept s)) := rfl

theorem exec_peerReject (s : State) : exec .peerReject s = .next (settle (peerReject s)) := rfl

section
variable {s : State}

theorem offered_some {i : FrameItem} (h : s.link.state = .sending) (hi : s.link.sending = some (i, false)) :
    offered s.link = some i := by
  simp only [offered, h, hi]

theorem offered_none (h : ∀ i, s.link.state = .sending → s.link.sending ≠ some (i, false)) : offered s.link = none := by
  unfold offered
  split
  · next hs hi => exact absurd hi (h _ hs)
  · rfl

theorem lackRise_taken {i : FrameItem} (h : offered s.link = some i) (hi : i ≠ .endByte) :
    lackRise s = s.withLink (byteTaken i s.link) := by
  simp only [lackRise, h, hi, if_false]

theorem lackRise_none (h : offered s.link = none) : lackRise s = s := by
  simp only [lackRise, h]

theorem peerAccept_end (h : offered s.link = some .endByte) : peerAccept s = s.withLink { byteTaken .endByte s.link with
    sent := min (s.link.sent + 1) 65535
    out := { s.link.out with state := .settling, verdict := some .accept, r := { s.link.out.r with walk := .walking } } } :=
  if_pos h

theorem peerReject_end (h : offered s.link = some .endByte) : peerReject s = s.withLink { byteTaken .endByte s.link with
    rejects := min (s.link.rejects + 1) 65535, retryCount := s.link.retryCount + 1
    out := { s.link.out with state := .settling, verdict := some .reject, r := { s.link.out.r with walk := .walking } } } :=
  if_pos h

theorem peerAccept_none (h : offered s.link = none) : peerAccept s = s := if_neg (by simp [h])

theorem peerReject_none (h : offered s.link = none) : peerReject s = s := if_neg (by simp [h])

theorem lackFall_complete {i : FrameItem} (h : s.link.state = .sending) (hi : s.link.sending = some (i, true)) :
    lackFall s = s.withLink { s.link with sending := none, timer := none } := by
  simp only [lackFall, h, hi, stopTimer]

theorem lackFall_none (h : ∀ i, s.link.state = .sending → s.link.sending ≠ some (i, true)) : lackFall s = s := by
  unfold lackFall
  split
  · next hs hi => exact absurd hi (h _ hs)
  · rfl

end

/-- Settles O35, by the byte that is offered. -/
theorem senderHandshake : Obligations.SenderHandshake := by
  intro s l taken settling
  rw [exec_lackRise, exec_lackFall, exec_peerAccept, exec_peerReject]
  refine ⟨fun i h hi hne => ?_, fun h hi => ⟨?_, ?_⟩, fun i h hi => ?_, fun h => ⟨?_, ?_, ?_⟩, fun h => ?_⟩
  · exact next_settle_congr (lackRise_taken (offered_some h hi) hne)
  · exact ⟨_, next_settle_congr (peerAccept_end (offered_some h hi)), rfl, settle_sent _, settle_rejects _⟩
  · exact ⟨_, next_settle_congr (peerReject_end (offered_some h hi)), rfl, settle_rejects _, settle_sent _⟩
  · exact next_settle_congr (lackFall_complete h hi)
  · exact next_settle_congr (lackRise_none (offered_none h))
  · exact next_settle_congr (peerAccept_none (offered_none h))
  · exact next_settle_congr (peerReject_none (offered_none h))
  · exact next_settle_congr (lackFall_none h)

/-! ### A rise of LSTB (06 R101) -/

theorem exec_linkBegin (s : State) : exec .linkBegin s = .next (settle (lstbRise true 0xB1 s)) := rfl

theorem exec_inboundEnd (s : State) : exec .inboundEnd s = .next (settle (lstbRise true 0xBE s)) := rfl

theorem exec_inboundAbort (s : State) : exec .inboundAbort s = .next (settle (lstbRise true 0xBA s)) := rfl

theorem exec_inboundDataByte (b : Byte) (s : State) :
    exec (.inboundDataByte b) s = .next (settle (lstbRise false b s)) := rfl

theorem exec_lstbFall (s : State) : exec .lstbFall s = .next (settle (lstbFall s)) := rfl

/-- The wait for the rise has ended (06 R102). -/
def waitEnded (s : State) : State := s.withLink (stopTimer s.link)

theorem listening_of_receiver {l : Link} (hc : l.receive = .complete)
    (h : l.state = .granted ∨ l.state = .receiving ∨ l.state = .reclaiming) : listening l = true := by
  rcases h with h | h | h <;> simp [listening, hc, h]

section
variable {s : State} (control : Bool) (b : Byte)

theorem lstbRise_deaf (h : s.link.state = .off ∨ s.link.state = .idle ∨ s.link.state = .sending ∨ s.link.state = .fault) :
    lstbRise control b s = s := by
  refine if_pos ?_
  rcases h with h | h | h | h <;> simp [listening, h]

/-- 06 R101: a rise that is an event, by where the link stands. -/
theorem lstbRise_listening (h : listening s.link = true) : lstbRise control b s =
    if s.link.state = .receiving then receivingByte control b (waitEnded s)
    else if s.link.state = .reclaiming ∧ s.link.tooLate = true then tooLateByte control b (waitEnded s)
    else if control = true ∧ b = 0xB1 then frameBegins (waitEnded s)
    else strayByte (waitEnded s) := if_neg (by simp [h])

variable (hc : s.link.receive = .complete)
include hc

theorem lstbRise_receiving (h : s.link.state = .receiving) :
    lstbRise control b s = receivingByte control b (waitEnded s) := by
  rw [lstbRise_listening control b (listening_of_receiver hc (.inr (.inl h))), if_pos h]

theorem lstbRise_tooLate (h : s.link.state = .reclaiming) (ht : s.link.tooLate = true) :
    lstbRise control b s = tooLateByte control b (waitEnded s) := by
  rw [lstbRise_listening control b (listening_of_receiver hc (.inr (.inr h))), if_neg (by simp [h]), if_pos ⟨h, ht⟩]

/-- 06 R110, R111: no frame is in progress. -/
theorem lstbRise_outside (h : s.link.state = .granted ∨ (s.link.state = .reclaiming ∧ s.link.tooLate = false)) :
    lstbRise control b s = if control = true ∧ b = 0xB1 then frameBegins (waitEnded s) else strayByte (waitEnded s) := by
  have hstate : s.link.state = .granted ∨ s.link.state = .receiving ∨ s.link.state = .reclaiming := by tauto
  have hnot : s.link.state ≠ .receiving := by rcases h with h | ⟨h, -⟩ <;> simp [h]
  have hlate : ¬(s.link.state = .reclaiming ∧ s.link.tooLate = true) := by rcases h with h | ⟨-, ht⟩ <;> simp [*]
  rw [lstbRise_listening control b (listening_of_receiver hc hstate), if_neg hnot, if_neg hlate]

end

/-! ### BEGIN and the end of a byte (06 R101, R110, R111, R116) -/

section
variable {s : State}

theorem inboundBegin_none (h : s.link.fillQ = none) : inboundBegin s
    = s.withLink { s.link with inb := { Inbound.reset with state := .discarding, verdict := some .reject } } := by
  rw [inboundBegin, h]

theorem inboundBegin_some {q : QId} (h : s.link.fillQ = some q) : inboundBegin s
    = makeClaim q (.openRec .link) (s.withLink { s.link with inb := { Inbound.reset with
        state := .filling, w := { Writer.reset with queue := some q, openAns := some .awaited } } }) := by
  rw [inboundBegin, h]

theorem frameBegins_discarding (h : s.link.state = .granted) (hf : s.link.fillQ = none) : frameBegins (waitEnded s)
    = s.withLink { ackByte .plain false s.link with
        state := .receiving, inb := { Inbound.reset with state := .discarding, verdict := some .reject } } :=
  (if_pos h).trans (inboundBegin_none hf)

theorem frameBegins_filling {q : QId} (h : s.link.state = .granted) (hf : s.link.fillQ = some q) :
    frameBegins (waitEnded s) = makeClaim q (.openRec .link) (s.withLink { ackByte .plain false s.link with
      state := .receiving
      inb := { Inbound.reset with
        state := .filling, w := { Writer.reset with queue := some q, openAns := some .awaited } } }) :=
  (if_pos h).trans (inboundBegin_some hf)

theorem frameBegins_tooLate (h : s.link.state ≠ .granted) : frameBegins (waitEnded s)
    = s.withLink { ackByte .plain false s.link with tooLate := true, lreqFell := false } := if_neg h

theorem lstbFall_acked {k : ByteKind} (h : s.link.receive = .acked k) : lstbFall s = s.withLink (lstbFalls k s.link) := by
  simp only [lstbFall, h]

theorem lstbFall_none (h : ∀ k, s.link.receive ≠ .acked k) : lstbFall s = s := by
  unfold lstbFall
  split
  · next k hk => exact absurd hk (h k)
  all_goals rfl

end

/-- 06 R101, R102: LACK and LRJ have dropped and the byte is complete. -/
def byteDown (l : Link) : Link :=
  { l with lines := { l.lines with lack := some false, lrj := some false }, receive := .complete, timer := none }

section
variable {l : Link} {k : ByteKind}

theorem lstbFalls_plain_frame (h : l.state = .receiving ∨ l.tooLate = true) :
    lstbFalls .plain l = { byteDown l with timer := some { use := .nextLstb, left := l.timeout * 256 } } := if_pos h

theorem lstbFalls_plain_outside (h : l.state ≠ .receiving) (ht : l.tooLate = false) : lstbFalls .plain l = byteDown l :=
  if_neg (by simp [stopTimer, h, ht])

theorem lstbFalls_last_frame (hk : k = .endByte ∨ k = .abortByte) (h : l.state = .receiving) :
    lstbFalls k l = { byteDown l with inb := Inbound.reset, grants := min 15 (l.grants + 1), state := .granted } := by
  rcases hk with rfl | rfl <;> exact if_pos h

theorem lstbFalls_last_tooLate (hk : k = .endByte ∨ k = .abortByte) (h : l.state ≠ .receiving) :
    lstbFalls k l = { byteDown l with tooLate := false } := by
  rcases hk with rfl | rfl <;> exact if_neg h

end

/-- Settles O36: BEGIN by where the link stands, and the fall of LSTB by the byte that is complete. -/
theorem beginAndByteEnd : Obligations.BeginAndByteEnd := by
  intro s l acked down
  rw [exec_linkBegin, exec_lstbFall]
  have begins (hc : l.receive = .complete) (h : l.state = .granted ∨ (l.state = .reclaiming ∧ l.tooLate = false)) :
      lstbRise true 0xB1 s = frameBegins (waitEnded s) := (lstbRise_outside true 0xB1 hc h).trans (if_pos ⟨rfl, rfl⟩)
  have falls {k : ByteKind} {x : Link} (hk : l.receive = .acked k) (hx : lstbFalls k l = x) :
      (.next (settle (lstbFall s)) : Outcome) = .next (settle (s.withLink x)) :=
    next_settle_congr ((lstbFall_acked hk).trans (congrArg s.withLink hx))
  have falls_last {x : Link} (hk : l.receive = .acked .endByte ∨ l.receive = .acked .abortByte)
      (hx : ∀ k, k = .endByte ∨ k = .abortByte → lstbFalls k l = x) :
      (.next (settle (lstbFall s)) : Outcome) = .next (settle (s.withLink x)) :=
    hk.elim (fun hk => falls hk (hx _ (.inl rfl))) (fun hk => falls hk (hx _ (.inr rfl)))
  refine ⟨fun h hc hf => ?_, fun q h hc hf => ?_, fun h hc ht => ?_, fun h hc => ?stray, fun hk h => ?_, fun hk h ht => ?_,
    fun hk h => ?_, fun hk h => ?_, fun h => next_settle_congr (lstbFall_none h)⟩
  · exact next_settle_congr ((begins hc (.inl h)).trans (frameBegins_discarding h hf))
  · exact next_settle_congr ((begins hc (.inl h)).trans (frameBegins_filling h hf))
  · exact next_settle_congr ((begins hc (.inr ⟨h, ht⟩)).trans (frameBegins_tooLate (by rw [h]; decide)))
  case stray =>
    rcases h with h | ⟨h, ht⟩
    · exact next_settle_congr (lstbRise_receiving true 0xB1 hc h)
    · exact next_settle_congr (lstbRise_tooLate true 0xB1 hc h ht)
  · exact falls hk (lstbFalls_plain_frame h)
  · exact falls hk (lstbFalls_plain_outside h ht)
  · exact falls_last hk fun k hk => lstbFalls_last_frame hk h
  · exact falls_last hk fun k hk => lstbFalls_last_tooLate hk h

/-! ### Data bytes (06 R117) -/

section
variable {s : State} {b : Byte}

theorem receiveData_filling (h : s.link.inb.state = .filling) : receiveData b s = frameData b s := by
  simp only [receiveData, h]

theorem receiveData_other (h : s.link.inb.state ≠ .filling) : receiveData b s = s.withLink (ackByte .plain false s.link) := by
  unfold receiveData
  split
  · next h' => exact absurd h' h
  all_goals rfl

theorem natOfBytes_two (a b : Byte) : natOfBytes [a, b] = a.toNat * 256 + b.toNat := by
  simp only [natOfBytes, List.foldl]
  omega

theorem frameData_tag (h : s.link.inb.frameBytes = 0) : frameData b s = s.withLink { ackByte .plain false s.link with
    inb := { s.link.inb with frameBytes := 1, w := { s.link.inb.w with tag := some b } } } := by
  simp only [frameData, h]

theorem frameData_lengthHigh (h : s.link.inb.frameBytes = 1) : frameData b s = s.withLink { ackByte .plain false s.link with
    inb := { s.link.inb with frameBytes := 2, lengthHigh := some b } } := by
  simp only [frameData, h]

/-- 06 R103, R117: the declared length is formed; one that no record can have is rejected. -/
theorem frameData_lengthLow {m : Byte} (h : s.link.inb.frameBytes = 2) (hm : s.link.inb.lengthHigh = some m) :
    frameData b s = if declaredTooLong (m.toNat * 256 + b.toNat) then
        inboundReject (s.withLink { ackByte .plain false s.link with
          inb := { s.link.inb with frameBytes := 3, declared := some (m.toNat * 256 + b.toNat) } })
      else s.withLink { ackByte .plain false s.link with
        inb := { s.link.inb with frameBytes := 3, declared := some (m.toNat * 256 + b.toNat) } } := by
  simp only [frameData, h, hm, Option.getD_some, natOfBytes_two]

theorem frameData_payload {n : Nat} (h : 3 ≤ s.link.inb.frameBytes) (hn : s.link.inb.declared = some n) :
    frameData b s = payloadByte b n s := by
  unfold frameData
  dsimp only
  split
  case h_4 => rw [hn, Option.getD_some]
  all_goals omega

theorem payloadByte_tooMany {n : Nat} (h : n < s.link.inb.frameBytes + 1 - 3) :
    payloadByte b n s = inboundReject (s.withLink (ackByte .plain false s.link)) := if_pos h

theorem payloadByte_buffered {n : Nat} (h : s.link.inb.frameBytes + 1 - 3 ≤ n) (hb : s.link.inb.w.buf.length < 32) :
    payloadByte b n s = s.withLink { ackByte .plain false s.link with inb := { s.link.inb with
      frameBytes := s.link.inb.frameBytes + 1, w := { s.link.inb.w with buf := s.link.inb.w.buf ++ [b] } } } :=
  (if_neg h.not_gt).trans (if_pos hb)

theorem payloadByte_held {n : Nat} (h : s.link.inb.frameBytes + 1 - 3 ≤ n) (hb : 32 ≤ s.link.inb.w.buf.length) :
    payloadByte b n s = s.withLink { s.link with
      receive := .withheld .plain, inb := { s.link.inb with frameBytes := s.link.inb.frameBytes + 1, held := some b } } :=
  (if_neg h.not_gt).trans (if_neg hb.not_gt)

end

theorem not_declaredTooLong {n : Nat} (h : n ≤ 16384) : ¬declaredTooLong n = true := by
  rw [declaredTooLong, decide_eq_true_iff, Config.maxPayload]
  omega

/-- Settles O37: a data byte by where the link stands; in a frame by how many bytes of it have come. -/
theorem inboundDataByte : Obligations.InboundDataByte := by
  intro b s hc l i acked answered
  rw [exec_inboundDataByte]
  have receives (h : l.state = .receiving) : lstbRise false b s = receiveData b (waitEnded s) :=
    lstbRise_receiving false b hc h
  refine ⟨fun h hi => ?frame, fun h hi => ?_, fun h ht => ?_, fun h => ?_, fun h => ?_⟩
  case frame =>
    have frame {t : State} (ht : frameData b (waitEnded s) = t) :
        (.next (settle (lstbRise false b s)) : Outcome) = .next (settle t) :=
      next_settle_congr ((receives h).trans ((receiveData_filling (s := waitEnded s) hi).trans ht))
    refine ⟨fun hf => ?_, fun hf => ?_, fun m hf hm hn => ?_, fun m hf hm hn => ?_, fun n hf hn hle hb => ?_,
      fun n hf hn hle hb => ?_, fun n hf hn hlt => ?_⟩
    · exact frame (frameData_tag (s := waitEnded s) hf)
    · exact frame (frameData_lengthHigh (s := waitEnded s) hf)
    · exact frame ((frameData_lengthLow (s := waitEnded s) hf hm).trans (if_neg (not_declaredTooLong hn)))
    · exact frame ((frameData_lengthLow (s := waitEnded s) hf hm).trans (if_pos (decide_eq_true hn)))
    · exact frame ((frameData_payload (s := waitEnded s) hf hn).trans
        (payloadByte_buffered (s := waitEnded s) (show i.frameBytes + 1 - 3 ≤ n by omega) hb))
    · exact frame ((frameData_payload (s := waitEnded s) hf hn).trans
        (payloadByte_held (s := waitEnded s) (show i.frameBytes + 1 - 3 ≤ n by omega) hb))
    · exact frame ((frameData_payload (s := waitEnded s) hf hn).trans
        (payloadByte_tooMany (s := waitEnded s) (show n < i.frameBytes + 1 - 3 by omega)))
  · exact next_settle_congr ((receives h).trans (receiveData_other (s := waitEnded s) hi))
  · exact next_settle_congr (lstbRise_tooLate false b hc h ht)
  · exact next_settle_congr ((lstbRise_outside false b hc h).trans (if_neg (by simp)))
  · exact next_settle_congr (lstbRise_deaf false b h)

/-! ### END, ABORT and stray bytes (06 R104, R111, R118, R119) -/

section
variable {s : State}

theorem lengthMatches_iff (i : Inbound) :
    lengthMatches i = true ↔ ∃ n, i.declared = some n ∧ 3 ≤ i.frameBytes ∧ i.frameBytes - 3 = n := by
  unfold lengthMatches
  split
  · next h => simp [h]
  · next n h =>
    simp only [h, Option.some.injEq, exists_eq_left', Bool.and_eq_true, decide_eq_true_eq, beq_iff_eq]

theorem receiveEnd_committing (h : s.link.inb.state = .filling) (hm : lengthMatches s.link.inb = true) :
    receiveEnd s = s.withLink { s.link with
      receive := .withheld .endByte, inb := { s.link.inb with state := .committing } } := by
  simp only [receiveEnd, withLink_link, h, hm, if_true, withLink_withLink]

theorem receiveEnd_rejected (h : s.link.inb.state = .filling) (hm : ¬lengthMatches s.link.inb = true) :
    receiveEnd s = inboundReject (s.withLink { s.link with receive := .withheld .endByte }) := by
  simp only [receiveEnd, withLink_link, h, hm, if_false, Bool.false_eq_true]

theorem receiveEnd_other (h : s.link.inb.state ≠ .filling) :
    receiveEnd s = s.withLink { s.link with receive := .withheld .endByte } := by
  unfold receiveEnd
  dsimp only [withLink_link]
  split
  · next h' => exact absurd h' h
  all_goals rfl

theorem receiveAbort_cancelled (h : s.link.inb.state = .filling ∨ s.link.inb.state = .committing) :
    receiveAbort s = inboundCancel none (s.withLink { s.link with receive := .withheld .abortByte }) := by
  rcases h with h | h <;> simp only [receiveAbort, withLink_link, h]

theorem receiveAbort_other (h : s.link.inb.state ≠ .filling) (h' : s.link.inb.state ≠ .committing) :
    receiveAbort s = s.withLink { s.link with receive := .withheld .abortByte } := by
  unfold receiveAbort
  dsimp only [withLink_link]
  split
  · next hs => exact absurd hs h
  · next hs => exact absurd hs h'
  all_goals rfl

theorem receivingByte_stray {b : Byte} (hend : b ≠ 0xBE) (habort : b ≠ 0xBA) : receivingByte true b s = strayByte s := by
  unfold receivingByte
  rw [if_neg (by decide)]
  exact (if_neg hend).trans (if_neg habort)

theorem tooLateByte_stray {b : Byte} (hend : b ≠ 0xBE) (habort : b ≠ 0xBA) : tooLateByte true b s = strayByte s := by
  unfold tooLateByte
  rw [if_neg (by decide)]
  exact (if_neg hend).trans (if_neg habort)

theorem lstbRise_stray {b : Byte} (hc : s.link.receive = .complete)
    (h : s.link.state = .granted ∨ s.link.state = .reclaiming ∨ s.link.state = .receiving)
    (hbegin : b ≠ 0xB1) (hend : b ≠ 0xBE) (habort : b ≠ 0xBA) : lstbRise true b s = strayByte (waitEnded s) := by
  have outside (ho : s.link.state = .granted ∨ (s.link.state = .reclaiming ∧ s.link.tooLate = false)) :
      lstbRise true b s = strayByte (waitEnded s) :=
    (lstbRise_outside true b hc ho).trans (if_neg fun hb => hbegin hb.2)
  rcases h with h | h | h
  · exact outside (.inl h)
  · cases ht : s.link.tooLate with
    | false => exact outside (.inr ⟨h, ht⟩)
    | true => exact (lstbRise_tooLate true b hc h ht).trans (tooLateByte_stray hend habort)
  · exact (lstbRise_receiving true b hc h).trans (receivingByte_stray hend habort)

end

/-- Settles O38: END, ABORT and stray bytes by where the link stands and, in a frame, by the state of its record. -/
theorem endAbortAndStrayBytes : Obligations.EndAbortAndStrayBytes := by
  intro b s hc l i withheld stray
  rw [exec_inboundEnd, exec_inboundAbort, exec_linkBegin]
  have ends {t : State} (h : l.state = .receiving) (ht : receiveEnd (waitEnded s) = t) :
      (.next (settle (lstbRise true 0xBE s)) : Outcome) = .next (settle t) :=
    next_settle_congr ((lstbRise_receiving true 0xBE hc h).trans ht)
  have aborts {t : State} (h : l.state = .receiving) (ht : receiveAbort (waitEnded s) = t) :
      (.next (settle (lstbRise true 0xBA s)) : Outcome) = .next (settle t) :=
    next_settle_congr ((lstbRise_receiving true 0xBA hc h).trans ht)
  refine ⟨fun n h hi hn hf hm => ?_, fun h hi hm => ?_, fun h hi => ?_, fun h hi => ?_, fun h hi hi' => ?_,
    fun h ht => ⟨?_, ?_⟩, fun h => ⟨?_, ?_⟩, fun h hbegin hend habort => ?_, fun h => ⟨?_, ?_, ?_, ?_⟩, rfl, rfl, rfl, rfl⟩
  · exact ends h (receiveEnd_committing (s := waitEnded s) hi ((lengthMatches_iff i).mpr ⟨n, hn, hf, hm⟩))
  · refine ends h (receiveEnd_rejected (s := waitEnded s) hi fun hmatch => ?_)
    obtain ⟨n, hn, hf, hlength⟩ := (lengthMatches_iff i).mp hmatch
    rcases hm n hn with hshort | hne
    · omega
    · exact hne hlength
  · exact ends h (receiveEnd_other (s := waitEnded s) hi)
  · exact aborts h (receiveAbort_cancelled (s := waitEnded s) hi)
  · exact aborts h (receiveAbort_other (s := waitEnded s) hi hi')
  · exact next_settle_congr (lstbRise_tooLate true 0xBE hc h ht)
  · exact next_settle_congr (lstbRise_tooLate true 0xBA hc h ht)
  · exact next_settle_congr ((lstbRise_outside true 0xBE hc h).trans (if_neg (by decide)))
  · exact next_settle_congr ((lstbRise_outside true 0xBA hc h).trans (if_neg (by decide)))
  · exact next_settle_congr (lstbRise_stray hc h hbegin hend habort)
  · exact next_settle_congr (lstbRise_deaf true _ h)
  · exact next_settle_congr (lstbRise_deaf true _ h)
  · exact next_settle_congr (lstbRise_deaf true _ h)
  · exact next_settle_congr (lstbRise_deaf true _ h)

end Sys2Proof.Machine
end

section
/-! The sequencer's completions, ALERT and recovery (07 R129, R137; 08 R140, R143 to R147). -/

namespace Sys2Proof.Machine

theorem withSeq_seq_self (s : State) : s.withSeq s.seq = s := rfl

theorem withArray_array_self (s : State) : s.withArray s.array = s := rfl

/-! ### The taking up of an ALERT (08 R144, R146, R147) -/

theorem lastStrike_iff (x : Seq) : lastStrike x = true ↔ ∃ e ∈ x.unconfirmed, e.replays = 3 := by
  simp only [lastStrike, List.any_eq_true, beq_iff_eq, Config.maxReplay]

theorem takeUp_recovers {s : State} (h : ∀ e ∈ s.seq.unconfirmed, e.replays ≠ 3) :
    takeUp s = raise .arrayAlert (s.withSeq { s.seq with
      state := .recovering, unconfirmed := [], alertPending := false
      replay := s.seq.unconfirmed.map (fun e => { e with replays := e.replays + 1 }) ++ s.seq.replay
      op := some (.recoveryCloseAll, s.seq.config.tClose) }) := by
  refine if_neg ?_
  rw [lastStrike_iff]
  exact fun ⟨e, he, hr⟩ => h e he hr

theorem takeUp_faults {s : State} (h : ∃ e ∈ s.seq.unconfirmed, e.replays = 3) : takeUp s = arrayFault s :=
  if_pos ((lastStrike_iff _).mpr h)

/-! ### ALERT (08 R143) -/

theorem exec_alert (s : State) : exec .alert s = .next (settle (alertRaised s)) := rfl

section
variable {s : State}

theorem alertRaised_deaf (h : s.seq.state = .off ∨ s.seq.state = .fault) : alertRaised s = s := by
  rcases h with h | h <;> simp only [alertRaised, h]

theorem alertRaised_starting (h : s.seq.state = .starting) : alertRaised s = if inStartRefresh s.seq then
    s.withSeq { s.seq.counted with alertPending := true } else s.withSeq s.seq.counted := by
  simp only [alertRaised, h]

theorem alertRaised_ready (h : s.seq.state = .ready) : alertRaised s =
    if s.seq.unconfirmed = [] then s.withSeq s.seq.counted else takeUp (s.withSeq s.seq.counted) := by
  simp only [alertRaised, h]

theorem alertRaised_busy (h : s.seq.state = .accessing ∨ s.seq.state = .refreshing ∨ s.seq.state = .recovering) :
    alertRaised s = s.withSeq { s.seq.counted with alertPending := true } := by
  rcases h with h | h | h <;> simp only [alertRaised, h]

end

/-- Settles O42, by the sequencer's state; in READY by the replays of the unconfirmed entries. -/
theorem alertByState : Obligations.AlertByState := by
  intro s x n counted waits
  rw [exec_alert]
  refine ⟨fun h => ?_, fun k h ho => ?_, fun k h ho => ?_, fun h hu => ?_, fun h hu hr => ?_, fun h hr => ?_, fun h => ?_,
    takeUp_recovers, takeUp_faults⟩
  · exact next_settle_congr (alertRaised_deaf h)
  · exact next_settle_congr ((alertRaised_starting h).trans (if_neg (by simp [inStartRefresh, show s.seq.op = _ from ho])))
  · exact next_settle_congr ((alertRaised_starting h).trans (if_pos (by rw [inStartRefresh, ho])))
  · exact next_settle_congr ((alertRaised_ready h).trans (if_pos hu))
  · exact next_settle_congr ((alertRaised_ready h).trans ((if_neg hu).trans (takeUp_recovers (s := counted) hr)))
  · have hu : x.unconfirmed ≠ [] := by
      obtain ⟨e, he, -⟩ := hr
      exact List.ne_nil_of_mem he
    exact next_settle_congr ((alertRaised_ready h).trans ((if_neg hu).trans (takeUp_faults (s := counted) hr)))
  · exact next_settle_congr (alertRaised_busy h)

/-! ### The completion of an access (07 R137, R138) -/

theorem accessInProgress_of_issued {x : Seq} {c : Client} {r : Request} {k : Nat} (ho : x.op = some (.access c, k))
    (hs : x.slots.get c = .issued r) : accessInProgress x = some (c, r) := by
  simp only [accessInProgress, ho, hs]

theorem exec_accessCompletion {s : State} {c : Client} {r : Request} (h : accessInProgress s.seq = some (c, r))
    (reply : ArrayReply) : exec (.accessCompletion reply) s
      = if r.block < totalBlocks s.seq.config then .next (settle (accessDone c r reply s)) else .fault .noSuchBlock := by
  change execAccessCompletion reply s = _
  simp only [execAccessCompletion, h, inArray, decide_eq_true_eq]

/-- With no operation in progress and the sequencer READY, going on changes nothing. -/
theorem afterCompletion_idle {s : State} (hs : s.seq.state = .ready) (ho : s.seq.op = none) :
    afterCompletion Seq.idle s = if s.seq.alertPending then takeUp s else s := by
  have hidle : s.seq.idle = s.seq := by rw [Seq.idle, ← hs, ← ho]
  rw [afterCompletion, hidle, withSeq_seq_self]

theorem accessDone_eq (c : Client) (r : Request) (reply : ArrayReply) (s : State) : accessDone c r reply s =
    afterCompletion Seq.idle ((s.withArray (storeAccess s.array r (movedBytes s.array r reply))).withSeq
      { s.seq.join (newEntry s.seq.config (.request c r) (heldBytes r (movedBytes s.array r reply))) with
        bankTable := opened s.seq r, slots := s.seq.slots.set c (.unconfirmed r), state := .ready }) := rfl

/-- Settles O45: the access completes with the bytes it moved, unless its block does not exist. -/
theorem accessCompletes : Obligations.AccessCompletes := by
  intro s c r k reply ho hslot
  have hop := accessInProgress_of_issued ho hslot
  rw [exec_accessCompletion hop]
  intro x a read entry joined answer
  refine ⟨fun h => if_neg h.not_gt, fun h hk => (if_pos h).trans (next_settle_congr ?_),
    fun h hk => (if_pos h).trans (next_settle_congr ?_)⟩
  all_goals rw [accessDone_eq, afterCompletion_idle rfl rfl]
  · simp only [movedBytes, heldBytes, storeAccess, hk, withArray_array_self]
    rfl
  · simp only [movedBytes, heldBytes, storeAccess, hk]
    rfl

/-! ### Refresh and start (07 R129, 08 R140) -/

theorem exec_refreshCompletion (s : State) : exec .refreshCompletion s = .next (settle (refreshDone s)) := rfl

theorem exec_startCloseAllDone (s : State) : exec .startCloseAllDone s = .next (startClosed s) := rfl

theorem exec_startRefreshDone (s : State) : exec .startRefreshDone s = .next (settle (startRefreshed s)) := rfl

theorem exec_recoveryCloseAllDone (s : State) : exec .recoveryCloseAllDone s = .next (settle (recoveryClosed s)) := rfl

section
variable {s : State} {k : Nat}

theorem refreshDone_eq (h : s.seq.op = some (.refresh, k)) : refreshDone s
    = afterCompletion Seq.idle (s.withSeq { s.seq.join (newEntry s.seq.config .refresh []) with
      debt := s.seq.debt - 1, state := .ready }) := by
  simp only [refreshDone, h]

theorem refreshDone_none (h : ∀ j, s.seq.op ≠ some (.refresh, j)) : refreshDone s = s := by
  unfold refreshDone
  split
  · next j ho => exact absurd ho (h j)
  · rfl

theorem startClosed_eq (h : s.seq.op = some (.startCloseAll, k)) : startClosed s
    = s.withSeq { closeBanks s.seq with op := some (.startRefresh, refreshClocks (closeBanks s.seq)) } := by
  simp only [startClosed, h]

theorem startClosed_none (h : ∀ j, s.seq.op ≠ some (.startCloseAll, j)) : startClosed s = s := by
  unfold startClosed
  split
  · next j ho => exact absurd ho (h j)
  · rfl

theorem startRefreshed_eq (h : s.seq.op = some (.startRefresh, k)) : startRefreshed s
    = afterCompletion Seq.idle (s.withSeq { s.seq.join (newEntry s.seq.config .refresh []) with
      timer := some (refreshInterval s.seq.config), state := .ready }) := by
  simp only [startRefreshed, h]

theorem startRefreshed_none (h : ∀ j, s.seq.op ≠ some (.startRefresh, j)) : startRefreshed s = s := by
  unfold startRefreshed
  split
  · next j ho => exact absurd ho (h j)
  · rfl

theorem recoveryClosed_eq (h : s.seq.op = some (.recoveryCloseAll, k)) : recoveryClosed s
    = afterCompletion reissueNext (s.withSeq { closeBanks s.seq with op := none }) := by
  simp only [recoveryClosed, h]

theorem recoveryClosed_none (h : ∀ j, s.seq.op ≠ some (.recoveryCloseAll, j)) : recoveryClosed s = s := by
  unfold recoveryClosed
  split
  · next j ho => exact absurd ho (h j)
  · rfl

end

/-- Settles O47, by the operation in progress. -/
theorem refreshAndStartComplete : Obligations.RefreshAndStartComplete := by
  intro s k x closed entry answer
  rw [exec_refreshCompletion, exec_startCloseAllDone, exec_startRefreshDone]
  refine ⟨fun h => ?_, fun h => ?_, fun h => ?_, fun h => ?_, fun h => ?_, fun h => ?_⟩
  · exact next_settle_congr ((refreshDone_eq h).trans (afterCompletion_idle rfl rfl))
  · exact congrArg Host.Outcome.next (startClosed_eq h)
  · exact next_settle_congr ((startRefreshed_eq h).trans (afterCompletion_idle rfl rfl))
  · exact next_settle_congr (refreshDone_none h)
  · exact congrArg Host.Outcome.next (startClosed_none h)
  · exact next_settle_congr (startRefreshed_none h)

/-! ### Recovery (08 R145, R146) -/

theorem reissueInProgress_of_op {x : Seq} {e : Entry} {k : Nat} (h : x.op = some (.reissue e, k)) :
    reissueInProgress x = some e := by
  simp only [reissueInProgress, h]

theorem reissueInProgress_none {x : Seq} (h : ∀ e j, x.op ≠ some (.reissue e, j)) : reissueInProgress x = none := by
  unfold reissueInProgress
  split
  · next e j ho => exact absurd ho (h e j)
  · rfl

theorem exec_reissueCompletion {s : State} {e : Entry} (h : reissueInProgress s.seq = some e) (reply : ArrayReply) :
    exec (.reissueCompletion reply) s
      = if entryInArray s.seq e then .next (settle (reissueDone e reply s)) else .fault .noSuchBlock := by
  change execReissueCompletion reply s = _
  simp only [execReissueCompletion, h]

theorem exec_reissueCompletion_none {s : State} (h : reissueInProgress s.seq = none) (reply : ArrayReply) :
    exec (.reissueCompletion reply) s = .next s := by
  change execReissueCompletion reply s = _
  simp only [execReissueCompletion, h]

theorem entryInArray_refresh {x : Seq} {e : Entry} (h : e.op = .refresh) : entryInArray x e = true := by
  simp only [entryInArray, h]

theorem entryInArray_request {x : Seq} {e : Entry} {c : Client} {r : Request} (h : e.op = .request c r) :
    entryInArray x e = true ↔ r.block < totalBlocks x.config := by
  simp only [entryInArray, h, inArray, decide_eq_true_eq]

theorem reissueDone_refresh {e : Entry} (h : e.op = .refresh) (reply : ArrayReply) (s : State) : reissueDone e reply s
    = afterCompletion reissueNext (s.withSeq (s.seq.join { e with window := s.seq.config.window })) := by
  simp only [reissueDone, h]

theorem reissueDone_request {e : Entry} {c : Client} {r : Request} (h : e.op = .request c r) (reply : ArrayReply)
    (s : State) : reissueDone e reply s
      = afterCompletion reissueNext ((s.withArray (storeAccess s.array r (movedBytes s.array r reply))).withSeq
        { s.seq.join { e with
            bytes := heldBytes r (movedBytes s.array r reply), window := s.seq.config.window } with
          bankTable := opened s.seq r, slots := s.seq.slots.set c (.unconfirmed r) }) := by
  simp only [reissueDone, h]

theorem reissueNext_nil {y : Seq} (h : y.replay = []) : reissueNext y = { y with state := .ready, op := none } := by
  simp only [reissueNext, h]

theorem reissueNext_request {y : Seq} {f : Entry} {rest : List Entry} {c : Client} {r : Request}
    (h : y.replay = f :: rest) (hf : f.op = .request c r) : reissueNext y = { y with
      replay := rest, slots := y.slots.set c (.issued r), op := some (.reissue f, accessClocks y r) } := by
  simp only [reissueNext, h, hf]

theorem reissueNext_refresh {y : Seq} {f : Entry} {rest : List Entry} (h : y.replay = f :: rest) (hf : f.op = .refresh) :
    reissueNext y = { y with
      replay := rest, bankTable := List.replicate y.config.banks none, op := some (.reissue f, refreshClocks y) } := by
  simp only [reissueNext, h, hf]
  rfl

theorem afterCompletion_pending {f : Seq → Seq} {s : State} (h : s.seq.alertPending = true) :
    afterCompletion f s = takeUp s := if_pos h

theorem afterCompletion_goesOn {f : Seq → Seq} {s : State} (h : s.seq.alertPending = false) :
    afterCompletion f s = s.withSeq (f s.seq) := if_neg (by simp [h])

theorem heldBytes_read {r : Request} (h : r.kind = .read) (bs : List Byte) : heldBytes r bs = bs := by
  simp only [heldBytes, h]

theorem heldBytes_write {r : Request} (h : r.kind = .write) (bs : List Byte) : heldBytes r bs = [] := by
  simp only [heldBytes, h]

/-- Settles O48: each completion of recovery goes on with the replay list, or takes up the pending ALERT. -/
theorem recoveryCompletes : Obligations.RecoveryCompletes := by
  intro s k e reply x closed struck onward completes
  have goesOn {y : Seq} (hy : y.config = x.config) : reissueNext y = onward y := by
    simp only [onward, closed, ← hy]
    split
    · next hr => exact reissueNext_nil hr
    · next f rest hr =>
      split
      · next hf => exact reissueNext_request hr hf
      · next hf => exact reissueNext_refresh hr hf
  have complete {c : Instr} {u : State} (hexec : exec c s = .next (settle (afterCompletion reissueNext u)))
      (hal : u.seq.alertPending = x.alertPending) (hconfig : u.seq.config = x.config) (hreplay : u.seq.replay = x.replay) :
      completes c u := by
    refine ⟨fun h => ?_, fun h hr => ?_, fun h hr => ?_⟩
    · rw [hexec, afterCompletion_goesOn (hal.trans h), goesOn hconfig]
    · rw [hexec, afterCompletion_pending (hal.trans h), takeUp_recovers hr, hreplay, hconfig]
    · rw [hexec, afterCompletion_pending (hal.trans h), takeUp_faults hr]
  refine ⟨fun ho => ?_, fun ho he => ?_, fun c r ho he hb => ?request, fun c r ho he hb => ?_, fun h => ?_, fun h => ?_⟩
  · refine complete ?_ rfl rfl rfl
    rw [exec_recoveryCloseAllDone, recoveryClosed_eq ho]
    rfl
  · refine complete ?_ rfl rfl rfl
    rw [exec_reissueCompletion (reissueInProgress_of_op ho), if_pos (entryInArray_refresh he), reissueDone_refresh he]
    rfl
  case request =>
    intro bytes
    refine complete ?_ rfl rfl rfl
    rw [exec_reissueCompletion (reissueInProgress_of_op ho), if_pos ((entryInArray_request he).mpr hb),
      reissueDone_request he]
    have hheld : heldBytes r bytes = match r.kind with | .read => bytes | .write => [] := by
      cases hk : r.kind with
      | read => exact heldBytes_read hk bytes
      | write => exact heldBytes_write hk bytes
    rw [show movedBytes s.array r reply = bytes from rfl, hheld]
    rfl
  · rw [exec_reissueCompletion (reissueInProgress_of_op ho)]
    exact if_neg (mt (entryInArray_request he).mp hb.not_gt)
  · exact next_settle_congr (recoveryClosed_none h)
  · exact exec_reissueCompletion_none (reissueInProgress_none h) reply

end Sys2Proof.Machine
end

section
/-! ARRAY_ON, ARRAY_OFF and FORMAT (07 R128, R130, 03 R55, R58): what the finished works of the waiting handovers leave as it
is, and what the pool is as it leaves its state. -/

namespace Sys2Proof.Machine

/-! ### ARRAY_ON (07 R128) -/

section
variable {s : State}

theorem arraySwitchOn_badMode (h : s.modeCtl.mode ≠ .config) : arraySwitchOn s = setCommand .badMode s := if_pos h

theorem arraySwitchOn_badState (h : s.modeCtl.mode = .config) (hs : s.seq.state ≠ .off) :
    arraySwitchOn s = setCommand .badState s := (if_neg (not_not.mpr h)).trans (if_pos hs)

theorem arraySwitchOn_starts (h : s.modeCtl.mode = .config) (hs : s.seq.state = .off) :
    arraySwitchOn s = setCommand .ok (arrayUnknown
      (s.withSeq { s.seq with state := .starting, op := some (.startCloseAll, s.seq.config.tClose) })) :=
  (if_neg (not_not.mpr h)).trans (if_neg (not_not.mpr hs))

end

theorem exec_arrayOn (s : State) : exec .arrayOn s = .next (arraySwitchOn (windowAccess s)) := rfl

/-- Settles O40, by the command's three answers. -/
theorem arrayOnAnswers : Obligations.ArrayOnAnswers := by
  intro s answered
  rw [exec_arrayOn]
  refine ⟨fun h => ?badMode, fun h hs => ?badState, fun h hs => ?starts⟩
  case badMode => exact congrArg Host.Outcome.next (arraySwitchOn_badMode (s := windowAccess s) h)
  case badState => exact congrArg Host.Outcome.next (arraySwitchOn_badState (s := windowAccess s) h hs)
  case starts =>
    refine ⟨_, rfl, ?_⟩
    rw [arraySwitchOn_starts (s := windowAccess s) h hs]
    rfl

/-! ### What a finished work leaves as it is -/

/-- What of a descriptor the reinitialisation and every work of the queue leave as it is. -/
def descKept (x : Queue) := (queueKept x, x.nextSeq)

/-- 02 R25: the parts of the state no finished work concerns. -/
structure Aside (s t : State) : Prop where
  seq : t.seq = s.seq
  modeCtl : t.modeCtl = s.modeCtl
  stamp : t.stamp = s.stamp
  array : t.array = s.array
  pending : t.pending = s.pending
  pool : t.pool = s.pool
  poolFault : pendingGlobal t.events .poolFault = pendingGlobal s.events .poolFault
  queues : ∀ q, descKept (t.queue q) = descKept (s.queue q)

section
variable {s t u : State}

theorem Aside.refl (s : State) : Aside s s := ⟨rfl, rfl, rfl, rfl, rfl, rfl, rfl, fun _ => rfl⟩

theorem Aside.trans (h : Aside s t) (k : Aside t u) : Aside s u where
  seq := k.seq.trans h.seq
  modeCtl := k.modeCtl.trans h.modeCtl
  stamp := k.stamp.trans h.stamp
  array := k.array.trans h.array
  pending := k.pending.trans h.pending
  pool := k.pool.trans h.pool
  poolFault := k.poolFault.trans h.poolFault
  queues q := (k.queues q).trans (h.queues q)

theorem Aside.withPool (h : Aside s t) (x : Pool) : Aside (s.withPool x) (t.withPool x) := { h with pool := rfl }

theorem Aside.withWindow (h : Aside s t) (x : Window) : Aside s (t.withWindow x) := { h with }
theorem Aside.withPush (h : Aside s t) (x : Push) : Aside s (t.withPush x) := { h with }
theorem Aside.withPop (h : Aside s t) (x : Pop) : Aside s (t.withPop x) := { h with }
theorem Aside.withLink (h : Aside s t) (x : Link) : Aside s (t.withLink x) := { h with }

theorem Aside.setWriter (h : Aside s t) (p : Producer) (w : Writer) : Aside s (t.setWriter p w) := by
  cases p with
  | push => exact h.withPush _
  | link => exact h.withLink _

theorem Aside.setStage (h : Aside s t) (p : Producer) (g : StepStage) : Aside s (setStage p g t) := h.setWriter ..

theorem Aside.endStep (h : Aside s t) (p : Producer) : Aside s (endStep p t) := h.setWriter ..

theorem Aside.setQueue (h : Aside s t) {q : QId} {x : Queue} (hx : descKept x = descKept (t.queue q)) :
    Aside s (t.setQueue q x) := by
  refine h.trans { Aside.refl t with queues := fun r => ?_ }
  rw [queue_setQueue]
  split
  next hr => exact hr ▸ hx
  next => rfl

theorem Aside.unheld (h : Aside s t) (q : QId) : Aside s (t.setQueue q (t.queue q).unheld) := h.setQueue rfl

theorem Aside.raise (h : Aside s t) {c : GlobalCause} (hc : c ≠ .poolFault) : Aside s (raise c t) := by
  refine { h with poolFault := Eq.trans ?_ h.poolFault }
  have hpending := isPending_raise c t (.global .poolFault)
  rwa [decide_eq_false (by simpa using hc.symm), Bool.false_or] at hpending

theorem Aside.raiseQueue (h : Aside s t) (c : QueueCause) (q : QId) : Aside s (raiseQueue c q t) := by
  cases c <;> exact { h with }

theorem Aside.dropOwed (h : Aside s t) (q : QId) : Aside s (dropOwed t q) := by
  unfold Machine.dropOwed
  split
  · exact h
  · split
    · exact h
    · exact h.setWriter ..

theorem Aside.removeTaken (h : Aside s t) (c : Consumer) : Aside s (removeTaken c t) := by
  cases c with
  | pop => exact h.withPop _
  | link => exact h.withLink _

theorem Aside.cancelDone (h : Aside s t) (p : Producer) : Aside s (cancelDone p t) := by
  cases p with
  | push => exact h.withPush _
  | link => exact h.withLink _

theorem Aside.withdrawCommit (h : Aside s t) : Aside s (withdrawCommit t) := by
  unfold Machine.withdrawCommit
  split
  · exact h
  · exact h.setQueue rfl

theorem Aside.refuseRecord (h : Aside s t) (p : Producer) : Aside s (refuseRecord p t) := by
  have hended := h.endStep p
  cases p with
  | push => exact (hended.withPush _).raise (by decide)
  | link => exact hended.withdrawCommit.withLink _

theorem Aside.discardLoop (h : Aside s t) (q : QId) (p : Producer) : Aside s (discardLoop q p t) := by
  unfold Machine.discardLoop
  have hfree := h.unheld q
  dsimp only
  split_ifs
  · exact hfree.refuseRecord p
  · exact hfree.endStep p
  · exact h.setQueue rfl

theorem Aside.drainLeft (h : Aside s t) (q : QId) : Aside s (drainLeft q t) := h.withLink _

theorem descKept_headAdvance (x : Queue) (o : Option Pos) (r : Removal) : descKept (headAdvance x o r) = descKept x := by
  refine congrArg₂ Prod.mk (queueKept_headAdvance ..) ?_
  unfold headAdvance
  dsimp only
  split
  · rfl
  · split <;> rfl

theorem descKept_cancelEffect (x : Queue) : descKept (cancelEffect x) = descKept x := by
  refine congrArg₂ Prod.mk (queueKept_cancelEffect ..) ?_
  unfold cancelEffect
  dsimp only
  split <;> rfl

theorem finishWork_aside (q : QId) (s : State) : Aside s (finishWork q s) := by
  have hdrop := (Aside.refl s).dropOwed q
  unfold finishWork
  dsimp only
  split
  case h_1 => exact Aside.refl s
  case h_2 =>
    refine (hdrop.setQueue ?_).removeTaken _
    rw [dropOwed_queue]
    exact descKept_headAdvance ..
  case h_3 =>
    have hcancelled : Aside s (s.setQueue q (cancelEffect (s.queue q)).unheld) :=
      (Aside.refl s).setQueue (descKept_cancelEffect _)
    exact hcancelled.cancelDone _
  case h_4 =>
    have hflushed : Aside s (s.setQueue q (flushEffect (s.queue q)).unheld) := (Aside.refl s).setQueue rfl
    exact (hflushed.drainLeft q).withWindow _
  case h_5 =>
    split
    case h_1 r _ =>
      have hadvanced : Aside s ((dropOwed s q).setQueue q
          { headAdvance (s.queue q) (openHeader s (s.queue q)) r with
            discards := sat16 ((headAdvance (s.queue q) (openHeader s (s.queue q)) r).discards + 1) }) := by
        refine hdrop.setQueue ?_
        rw [dropOwed_queue]
        exact descKept_headAdvance ..
      have hraised := (hadvanced.raiseQueue .queueDiscard q).drainLeft q
      split_ifs
      · exact (hraised.unheld q).setStage ..
      · exact hraised.discardLoop ..
    all_goals exact Aside.refl s

/-! ### The waiting handovers are taken (03 R52, R55, R58) -/

/-- The state with the pool's cache and waiting handovers put to these. -/
def poolHolding (s : State) (c : List CacheBlock) (w : List Handover) : State :=
  s.withPool { s.pool with cache := c, waiting := w }

theorem poolPutSingle_off {b : Nat} {p : Producer} (hs : s.pool.state ≠ .formatted) : poolPutSingle b p s = s.withPool
    { s.pool with cache := s.pool.cache.filter (fun c => !(c.block == b && c.promised == some p)) } := if_pos hs

theorem takeFront_aside {h : Handover} {rest : List Handover} (hs : s.pool.state ≠ .formatted)
    (hwaiting : s.pool.waiting = h :: rest) : ∃ c, Aside (poolHolding s c rest) (takeFront s) := by
  unfold takeFront
  rw [hwaiting]
  dsimp only
  cases h with
  | single b p =>
    refine ⟨s.pool.cache.filter (fun c => !(c.block == b && c.promised == some p)), ?_⟩
    dsimp only
    rw [poolPutSingle_off (by rwa [withPool_pool])]
    exact Aside.refl _
  | ofQueue q =>
    refine ⟨s.pool.cache, ?_⟩
    dsimp only
    split
    · exact finishWork_aside ..
    · rw [poolPut_off (by rwa [withPool_pool])]
      exact finishWork_aside ..

theorem poolHolding_poolHolding (s : State) (c d : List CacheBlock) (v w : List Handover) :
    poolHolding (poolHolding s c v) d w = poolHolding s d w := rfl

theorem Aside.poolHolding (h : Aside s t) (c : List CacheBlock) (w : List Handover) :
    Aside (poolHolding s c w) (poolHolding t c w) := by
  have hpool := h.withPool { s.pool with cache := c, waiting := w }
  unfold Machine.poolHolding
  rwa [h.pool]

theorem takeHandovers_aside (n : Nat) {s : State} (hs : s.pool.state ≠ .formatted) (hn : s.pool.waiting.length = n) :
    ∃ c, Aside (poolHolding s c []) (takeHandovers n s) := by
  induction n generalizing s with
  | zero =>
    refine ⟨s.pool.cache, ?_⟩
    have hself : Machine.poolHolding s s.pool.cache [] = s := by
      rw [Machine.poolHolding, ← List.length_eq_zero_iff.mp hn]
      rfl
    rw [hself]
    exact Aside.refl s
  | succ n ih =>
    obtain ⟨h, rest, hwaiting⟩ := List.exists_cons_of_length_eq_add_one hn
    obtain ⟨c, htaken⟩ := takeFront_aside hs hwaiting
    have hlength : (takeFront s).pool.waiting.length = n := by
      rw [htaken.pool]
      rw [hwaiting] at hn
      exact Nat.succ.inj hn
    obtain ⟨d, hmore⟩ := ih (by rwa [htaken.pool]) hlength
    refine ⟨d, ?_⟩
    rw [takeHandovers, if_neg (by simp [hwaiting])]
    have hlast := (htaken.poolHolding d []).trans hmore
    rwa [poolHolding_poolHolding] at hlast

/-- The state with the pool in state x, nothing waiting to be handed over. -/
def poolLeft (s : State) (x : PoolState) (c : List CacheBlock) : State :=
  s.withPool { s.pool with state := x, cache := c, waiting := [] }

theorem poolLeaves_aside {x : PoolState} (hx : x ≠ .formatted) (s : State) :
    ∃ c, Aside (poolLeft s x c) (poolLeaves x s) :=
  takeHandovers_aside _ (s := s.withPool { s.pool with state := x }) hx rfl

theorem foldl_exhausted_aside (l : List Producer) (h : Aside s t) :
    Aside s (l.foldl (fun t p => setStage p .exhausted t) t) := by
  induction l generalizing t with
  | nil => exact h
  | cons p l ih => exact ih (h.setStage ..)

theorem failAllocs_aside (s : State) : Aside (s.withPool { s.pool with waitingAllocs := [] }) (failAllocs s) :=
  foldl_exhausted_aside _ (Aside.refl _)

end

/-! ### ARRAY_OFF and FORMAT (07 R130, 03 R55, R58) -/

section
variable {s : State}

theorem arraySwitchOff_badMode (h : s.modeCtl.mode ≠ .config) : arraySwitchOff s = setCommand .badMode s := if_pos h

/-- The state with the sequencer switched off and the waiting handovers taken. -/
def switchedOff (s : State) : State := poolLeaves .unformatted (s.withSeq s.seq.switchedOff)

theorem arraySwitchOff_taken (h : s.modeCtl.mode = .config) :
    arraySwitchOff s = setCommand .ok (clear .refreshOverrun (reinitQueues (poolReset (switchedOff s)))) :=
  if_neg (not_not.mpr h)

theorem formatBegins_badMode (h : s.modeCtl.mode ≠ .config) : formatBegins s = setCommand .badMode s := if_pos h

theorem formatBegins_badState (h : s.modeCtl.mode = .config)
    (hs : s.seq.state = .off ∨ s.seq.state = .starting ∨ s.seq.state = .fault) :
    formatBegins s = setCommand .badState s := by
  unfold formatBegins
  rw [if_neg (not_not.mpr h), if_pos (by rw [(not_inService_iff _).mpr hs]; rfl)]

/-- The state with the pool in FORMATTING, its waiting handovers taken and its waiting allocations failed. -/
def leftToFormat (s : State) : State := failAllocs (poolLeaves .formatting s)

theorem formatBegins_taken (h : s.modeCtl.mode = .config)
    (hs : ¬(s.seq.state = .off ∨ s.seq.state = .starting ∨ s.seq.state = .fault)) :
    formatBegins s = setCommand .ok (((leftToFormat s).withPool { (leftToFormat s).pool with
      chainHead := none, chainCount := 0, cache := [], release := [], progress := 0 }).withModeCtl
        { (leftToFormat s).modeCtl with mode := .formatting }) := by
  unfold formatBegins
  rw [if_neg (not_not.mpr h), if_neg (by simpa [not_inService_iff] using mt (not_inService_iff _).mp hs)]
  rfl

theorem leftToFormat_aside (s : State) : ∃ c, Aside ((poolLeft s .formatting c).withPool
    { (poolLeft s .formatting c).pool with waitingAllocs := [] }) (leftToFormat s) := by
  obtain ⟨c, hleft⟩ := poolLeaves_aside (x := .formatting) (by decide) s
  refine ⟨c, ?_⟩
  rw [← hleft.pool]
  exact (hleft.withPool _).trans (failAllocs_aside _)

end

theorem exec_arrayOff (s : State) : exec .arrayOff s = .next (arraySwitchOff (windowAccess s)) := rfl
theorem exec_format (s : State) : exec .format s = .next (settle (formatBegins (windowAccess s))) := rfl

/-- Settles O41: the finished works of the waiting handovers touch nothing of what is stated (`Aside`); what the rest does is
read off. -/
theorem arrayOffAndFormat : Obligations.ArrayOffAndFormat := by
  intro s refused
  rw [exec_arrayOff, exec_format]
  refine ⟨fun h => ⟨?offBadMode, ?formatBadMode⟩, fun h => ?off, fun h hs => ?badState, fun h hoff hstarting hfault => ?format⟩
  case offBadMode => exact congrArg Host.Outcome.next (arraySwitchOff_badMode (s := windowAccess s) h)
  case formatBadMode => exact next_settle_congr (formatBegins_badMode (s := windowAccess s) h)
  case badState => exact next_settle_congr (formatBegins_badState (s := windowAccess s) h hs)
  case off =>
    refine ⟨_, rfl, ?_⟩
    rw [arraySwitchOff_taken (s := windowAccess s) h]
    obtain ⟨c, hleft⟩ := poolLeaves_aside (x := .unformatted) (by decide)
      ((windowAccess s).withSeq (windowAccess s).seq.switchedOff)
    set e := reinitQueues (poolReset (switchedOff (windowAccess s))) with he
    have hqueue (q : QId) : e.queue q = ((switchedOff (windowAccess s)).queue q).reinit := reinitQueues_queue ..
    have hcause (c : Cause) : c.isPending (setCommand .ok (clear .refreshOverrun e))
        = (!decide (c = .global .refreshOverrun) && c.isPending e) := Eq.trans (by cases c <;> rfl) (isPending_clear ..)
    refine ⟨?_, rfl, fun q => ?_, ?_, ?_, hleft.modeCtl, hleft.stamp, hleft.array, hleft.pending⟩
    · change { (switchedOff (windowAccess s)).seq with lastCommand := .ok } = _
      rw [switchedOff, hleft.seq]
      rfl
    · have hkept := hleft.queues q
      have hq : (setCommand .ok (clear .refreshOverrun e)).queue q
        = ((switchedOff (windowAccess s)).queue q).reinit := hqueue q
      rw [hq, hcause, he, isPending_reinitQueues]
      exact ⟨rfl, rfl, rfl, rfl, rfl, rfl, rfl, rfl, rfl, rfl, congrArg Prod.fst hkept, congrArg Prod.snd hkept, rfl⟩
    · rw [hcause]
      rfl
    · rw [hcause, he, isPending_reinitQueues]
      exact hleft.poolFault
  case format =>
    refine ⟨_, rfl, ?_⟩
    rw [formatBegins_taken (s := windowAccess s) h fun hs => by
      rcases hs with hs | hs | hs
      · exact hoff hs
      · exact hstarting hs
      · exact hfault hs]
    obtain ⟨c, hleft⟩ := leftToFormat_aside (windowAccess s)
    refine ⟨?_, ?_, ?_, hleft.array, hleft.stamp, hleft.pending, fun q => congrArg Prod.fst (hleft.queues q)⟩
    · change { (leftToFormat (windowAccess s)).modeCtl with mode := .formatting } = _
      rw [hleft.modeCtl]
      rfl
    · change { (leftToFormat (windowAccess s)).pool with
        chainHead := none, chainCount := 0, cache := [], release := [], progress := 0 } = _
      rw [hleft.pool]
      rfl
    · change { (leftToFormat (windowAccess s)).seq with lastCommand := .ok } = _
      rw [hleft.seq]
      rfl

end Sys2Proof.Machine
end

section
/-! The registers that have no row of their own, and the undefined codes and register accesses whose operand names a row
(11 Table 11-1, 04 R60, 05 R83, 11 R168, 09 R150, 06 R107, 11 R171). -/

namespace Sys2Proof.Machine

/-! ### Plain registers (11 R166) -/

theorem byteOf_one (n : Nat) : byteOf n 1 = BitVec.ofNat 8 (n / 256) := by rw [byteOf, pow_one]

theorem byteOf_zero (n : Nat) : byteOf n 0 = BitVec.ofNat 8 n := by rw [byteOf, pow_zero, Nat.div_one]

theorem byteOf_word {w : Nat} (x : BitVec w) (i : Nat) : byteOf x.toNat i = x.extractLsb' (8 * i) 8 := by
  apply BitVec.eq_of_toNat_eq
  rw [byteOf_toNat, BitVec.extractLsb'_toNat, Nat.shiftRight_eq_div_pow, pow_mul]
  rfl

theorem exec_registerRead {o : Fin 32} {s : State} {b : Byte} (h : registerByte s o.val = some b) :
    exec (.registerReadOther o) s = .next (drive b (windowAccess s)) := by
  change execRegisterReadOther o s = _
  simp only [execRegisterReadOther, h]

theorem exec_registerWrite {o : Fin 32} {v : Byte} (s : State) (h : writeHasOwnRow o = false) :
    exec (.registerWriteOther o v) s
      = .next ((windowAccess s).withWindow (storeRegister o.val v (windowAccess s).window)) :=
  if_neg (Bool.eq_false_iff.mp h)

theorem exec_registerWrite_row {o : Fin 32} {v : Byte} (s : State) (h : writeHasOwnRow o = true) :
    exec (.registerWriteOther o v) s = .next (settle (writeOwnRow o.val v (windowAccess s))) := if_pos h

/-- 11 Table 11-1: the read-only registers that have no row of their own. -/
def readOnly (o : Fin 32) : Prop :=
  (0x03 ≤ o.val ∧ o.val ≤ 0x0C) ∨ o = 0x14 ∨ o = 0x15 ∨ (0x1A ≤ o.val ∧ o.val ≤ 0x1E)

theorem writeHasOwnRow_readOnly : ∀ o : Fin 32, readOnly o → writeHasOwnRow o = false := by
  unfold readOnly
  decide

theorem storeRegister_readOnly {o : Fin 32} (h : readOnly o) (v : Byte) (w : Window) : storeRegister o.val v w = w := by
  have hval : (0x03 ≤ o.val ∧ o.val ≤ 0x0C) ∨ o.val = 0x14 ∨ o.val = 0x15 ∨ (0x1A ≤ o.val ∧ o.val ≤ 0x1E) :=
    h.imp id (Or.imp (congrArg Fin.val) (Or.imp (congrArg Fin.val) id))
  unfold storeRegister
  split
  case h_7 => rfl
  all_goals omega

theorem exec_registerWrite_readOnly {o : Fin 32} (h : readOnly o) (v : Byte) (s : State) :
    exec (.registerWriteOther o v) s = .next (windowAccess s) := by
  rw [exec_registerWrite s (writeHasOwnRow_readOnly o h), storeRegister_readOnly h]
  rfl

/-! ### Codes that name a row (log entry 7) -/

section
variable (s : State)

theorem exec_pctlUndefinedCode {code : Byte} (h : pctlUndefined code = true) :
    exec (.pctlUndefinedCode code) s = .next (raise .pushProtocol (windowAccess s)) := if_pos h

theorem exec_pctlUndefinedCode_listed {code : Byte} (h : pctlUndefined code = false) :
    exec (.pctlUndefinedCode code) s = .next (settle (pushControl code (windowAccess s))) :=
  if_neg (Bool.eq_false_iff.mp h)

theorem exec_octlUndefinedCode_listed {code : Byte} (h : octlUndefined code = false) :
    exec (.octlUndefinedCode code) s = .next (settle (popControl code (windowAccess s))) :=
  if_neg (Bool.eq_false_iff.mp h)

theorem exec_registerWrite_pctl (code : Byte) :
    exec (.registerWriteOther 0x01 code) s = .next (settle (pushControl code (windowAccess s))) :=
  exec_registerWrite_row s (by decide)

theorem exec_registerWrite_octl (code : Byte) :
    exec (.registerWriteOther 0x02 code) s = .next (settle (popControl code (windowAccess s))) :=
  exec_registerWrite_row s (by decide)

theorem pushControl_open {code : Byte} {q : QId} (h : code.toNat = 0x60 + q.val) :
    pushControl code s = pushOpen q s := by
  have hq : q.val < 24 := q.isLt
  have hne (k : Byte) (hk : k.toNat < 0x60) : code ≠ k := fun e => by subst e; omega
  unfold pushControl
  rw [if_neg (by omega), if_neg (hne _ (by decide)), if_neg (hne _ (by decide)), dif_pos (by omega)]
  exact congrArg (pushOpen · s) (Fin.ext (by change code.toNat - 0x60 = q.val; omega))

theorem pctlUndefined_open {code : Byte} {q : QId} (h : code.toNat = 0x60 + q.val) : pctlUndefined code = false := by
  have hq : q.val < 24 := q.isLt
  simp only [pctlUndefined, Bool.or_eq_false_iff, Bool.and_eq_false_iff, decide_eq_false_iff_not]
  omega

theorem popControl_select {code : Byte} {q : QId} (h : code.toNat = 0x20 + q.val) :
    popControl code s = popSelect q s := by
  have hq : q.val < 24 := q.isLt
  have hne (k : Byte) (hk : k.toNat < 0x20) : code ≠ k := fun e => by subst e; omega
  unfold popControl
  rw [if_neg (hne _ (by decide)), if_neg (hne _ (by decide)), if_neg (hne _ (by decide)), dif_pos (by omega)]
  exact congrArg (popSelect · s) (Fin.ext (by change code.toNat - 0x20 = q.val; omega))

theorem octlUndefined_select {code : Byte} {q : QId} (h : code.toNat = 0x20 + q.val) : octlUndefined code = false := by
  have hq : q.val < 24 := q.isLt
  simp only [octlUndefined, Bool.not_eq_false', Bool.or_eq_true, Bool.and_eq_true, decide_eq_true_eq]
  omega

theorem repeatCode_toNat (n : Fin 64) : (BitVec.ofNat 8 n.val : Byte).toNat = n.val := by
  rw [BitVec.toNat_ofNat]
  exact Nat.mod_eq_of_lt (by omega)

theorem exec_pctlUndefinedCode_repeat (n : Fin 64) : exec (.pctlUndefinedCode (BitVec.ofNat 8 n.val)) s
    = .next (settle (pushRepeat n.val (windowAccess s))) := by
  have hcode := repeatCode_toNat n
  have hlisted : pctlUndefined (BitVec.ofNat 8 n.val) = false := by
    simp only [pctlUndefined, Bool.or_eq_false_iff, Bool.and_eq_false_iff, decide_eq_false_iff_not, hcode]
    omega
  rw [exec_pctlUndefinedCode_listed s hlisted, pushControl, if_pos (by omega), hcode]

end

theorem registerReads (s : State) :
    let h := s.pop.r.hdr
    let reads (o : Fin 32) (b : Byte) : Prop := exec (.registerReadOther o) s = .next (drive b (windowAccess s))
    reads 0x03 (BitVec.ofNat 8 (h.length / 256)) ∧ reads 0x04 (BitVec.ofNat 8 h.length)
      ∧ reads 0x07 (h.stamp.extractLsb' 24 8) ∧ reads 0x08 (h.stamp.extractLsb' 16 8)
      ∧ reads 0x09 (h.stamp.extractLsb' 8 8) ∧ reads 0x0A (h.stamp.extractLsb' 0 8)
      ∧ reads 0x0B (h.seq.extractLsb' 8 8) ∧ reads 0x0C (h.seq.extractLsb' 0 8)
      ∧ reads 0x12 (BitVec.ofNat 8 s.window.qres.code)
      ∧ reads 0x1A (BitVec.ofNat 8 (s.push.accepted / 256)) ∧ reads 0x1B (BitVec.ofNat 8 s.push.accepted)
      ∧ reads 0x1C (BitVec.ofNat 8 (s.pop.r.remaining / 256)) ∧ reads 0x1D (BitVec.ofNat 8 s.pop.r.remaining) :=
  have read {o : Fin 32} {a b : Byte} (ha : registerByte s o.val = some a) (hab : a = b) :
      exec (.registerReadOther o) s = .next (drive b (windowAccess s)) := exec_registerRead (hab ▸ ha)
  ⟨read rfl (byteOf_one _), read rfl (byteOf_zero _), read rfl (byteOf_word _ 3), read rfl (byteOf_word _ 2),
    read rfl (byteOf_word _ 1), read rfl (byteOf_word _ 0), read rfl (byteOf_word _ 1), read rfl (byteOf_word _ 0),
    read rfl (congrArg (BitVec.ofNat 8) (Nat.mul_one _)), read rfl (byteOf_one _), read rfl (byteOf_zero _),
    read rfl (byteOf_one _), read rfl (byteOf_zero _)⟩

/-- Settles O52: the registers by the table of offsets, the codes by the command each names. -/
theorem otherRegistersAndRows : Obligations.OtherRegistersAndRows := by
  refine ⟨fun v s => ?registers, fun code s => ?rows⟩
  case registers =>
    obtain ⟨hlen1, hlen0, hstamp3, hstamp2, hstamp1, hstamp0, hseq1, hseq0, hqres, hplen1, hplen0, horem1, horem0⟩ :=
      registerReads s
    exact ⟨rfl, rfl, rfl, rfl, rfl, rfl, fun o ho => exec_registerWrite_readOnly ho v s, rfl, hlen1, hlen0, rfl, rfl,
      hstamp3, hstamp2, hstamp1, hstamp0, hseq1, hseq0, rfl, rfl, rfl, rfl, rfl, hqres, rfl, rfl, rfl, rfl, hplen1, hplen0,
      horem1, horem0, rfl, rfl⟩
  case rows =>
    have hopen (q : QId) (h : code.toNat = 0x60 + q.val) := next_settle_congr (pushControl_open (windowAccess s) h)
    have hselect (q : QId) (h : code.toNat = 0x20 + q.val) := next_settle_congr (popControl_select (windowAccess s) h)
    exact ⟨exec_pctlUndefinedCode s,
      fun q h => ⟨(exec_pctlUndefinedCode_listed s (pctlUndefined_open h)).trans (hopen q h),
        (exec_registerWrite_pctl s code).trans (hopen q h)⟩,
      fun q h => ⟨(exec_octlUndefinedCode_listed s (octlUndefined_select h)).trans (hselect q h),
        (exec_registerWrite_octl s code).trans (hselect q h)⟩,
      rfl, rfl, exec_pctlUndefinedCode_repeat s, rfl, rfl, rfl, rfl, rfl, rfl, rfl, rfl, rfl, rfl, rfl, rfl, rfl, rfl,
      rfl, rfl, rfl, rfl⟩

end Sys2Proof.Machine
end

section
/-! The sequencer's timer and confirmations, the stamp (08 R139, R142, 02 R37), and what each client of the array does at the
completion of its request (07 R134): the readers (05 R86 to R93, 06 R112 to R115), the writers and their discards (04 R71 to
R75, 02 R35), the pool (03 R44, R50, R53 to R57); and what a chain fault does at its reader and its queue (02 R26, 05 R95,
06 R113). -/

namespace Sys2Proof.Machine

/-! ### The refresh timer (08 R139) -/

section
variable {s : State}

theorem settle_debt (s : State) : (settle s).seq.debt = s.seq.debt := congrArg (·.1.2.1) (settle_reaction s).seq

theorem refreshExpired_stopped (h : s.seq.timer = none) : refreshExpired s = s := by
  unfold refreshExpired
  rw [h]

theorem refreshExpired_owes (h : s.seq.timer ≠ none) (hd : s.seq.debt < 8) : refreshExpired s
    = s.withSeq { s.seq with timer := some (s.seq.config.interval * 16), debt := s.seq.debt + 1 } := by
  obtain ⟨n, hn⟩ := Option.ne_none_iff_exists'.mp h
  unfold refreshExpired
  rw [hn]
  exact if_pos hd

theorem refreshExpired_overrun (h : s.seq.timer ≠ none) (hd : s.seq.debt = 8) : refreshExpired s
    = raise .refreshOverrun (s.withSeq { s.seq with timer := some (s.seq.config.interval * 16) }) := by
  obtain ⟨n, hn⟩ := Option.ne_none_iff_exists'.mp h
  unfold refreshExpired
  rw [hn]
  exact if_neg (by rw [hd]; decide)

/-! ### Confirmations (08 R142) -/

theorem confirmFront_nothing (h : windowed s.seq = []) : confirmFront s = s := by
  unfold confirmFront
  rw [h]

theorem confirmFront_refresh {e : Entry} {rest : List Entry} (h : windowed s.seq = e :: rest) (he : e.op = .refresh) :
    confirmFront s = s.withSeq { s.seq with unconfirmed := rest } := by
  unfold confirmFront
  rw [h]
  simp only [he]

theorem confirmFront_request {e : Entry} {rest : List Entry} {c : Client} {r : Request} (h : windowed s.seq = e :: rest)
    (he : e.op = .request c r) : confirmFront s = deliver c r.purpose e.bytes
      (s.withSeq { s.seq with unconfirmed := rest, slots := s.seq.slots.set c .empty }) := by
  unfold confirmFront
  rw [h]
  simp only [he]
  rfl

theorem windowed_nil (h : s.seq.unconfirmed = [] ∨ s.seq.alertPending = true) : windowed s.seq = [] := by
  rcases h with h | h
  · unfold windowed
    rw [h, ite_self]
  · exact windowed_pending h

end

/-! ### The readers (05 R86 to R93, 06 R112 to R115) -/

section
variable {k : Consumer} {s : State} {bs : List Byte}

theorem deliver_unwanted (h : (s.reader k).unwanted = true) (u : Purpose) (bs : List Byte) :
    deliver k.client u bs s = s.setReader k { s.reader k with unwanted := false } := by
  cases k <;> exact if_pos h

/-- 05 R95, 06 R113: what a chain fault does at its reader. -/
def readerChainFault (k : Consumer) (s : State) : State :=
  match k with
  | .pop => popChainFault s
  | .link => outChainFault s

/-- 05 R86, 06 R112: the reader's context at a sound header. -/
def headerPresented (k : Consumer) (h : Header) (s : State) : State :=
  match k with
  | .pop => s.withPop { s.pop with state := .ready, r := s.pop.r.presented h }
  | .link => s.withLink { s.link with out := { s.link.out with
      state := .streaming, frame := some .beginByte, r := s.link.out.r.presented h } }

variable (hr : (s.reader k).unwanted = false)
include hr

theorem deliver_payload : deliver k.client .payloadRead bs s
    = s.setReader k { s.reader k with buf := (s.reader k).buf ++ bs } := by
  cases k <;> exact if_neg (Bool.eq_false_iff.mp hr)

theorem deliver_link {b : Nat} (hb : classifyLink (totalBlocks s.seq.config) bs = .names b) :
    deliver k.client .linkRead bs s = s.setReader k ((s.reader k).follow b) := by
  cases k <;> exact (if_neg (Bool.eq_false_iff.mp hr)).trans (by simp only [hb]; rfl)

theorem deliver_endLink {b : Nat} (hb : classifyLink (totalBlocks s.seq.config) bs = .names b) :
    deliver k.client .endLinkRead bs s
      = s.setReader k { s.reader k with walk := .ready (some { block := b, offset := 4 }) } := by
  cases k <;> exact (if_neg (Bool.eq_false_iff.mp hr)).trans (by simp only [hb]; rfl)

theorem deliver_noLink {u : Purpose} (hu : u = .linkRead ∨ u = .endLinkRead)
    (hlink : ∀ b, classifyLink (totalBlocks s.seq.config) bs ≠ .names b) :
    deliver k.client u bs s = readerChainFault k s := by
  cases hc : classifyLink (totalBlocks s.seq.config) bs with
  | names b => exact absurd hc (hlink b)
  | chainFault | none =>
    rcases hu with rfl | rfl <;> cases k <;> exact (if_neg (Bool.eq_false_iff.mp hr)).trans (by simp only [hc]; rfl)

theorem deliver_header {q : QId} (hq : (s.reader k).queue = some q) : deliver k.client .headerRead bs s
    = if 16384 < (headerOf (s.queue q) bs).length then readerChainFault k s
      else headerPresented k (headerOf (s.queue q) bs) s := by
  cases k with
  | pop =>
    refine (if_neg (Bool.eq_false_iff.mp hr)).trans ?_
    have hq : s.pop.r.queue = some q := hq
    simp only [popHeader, hq]
    rfl
  | link =>
    refine (if_neg (Bool.eq_false_iff.mp hr)).trans ?_
    have hq : s.link.out.r.queue = some q := hq
    simp only [outHeader, hq, declaredTooLong, decide_eq_true_eq]
    rfl

end

/-! ### The RETRIED flag write (06 R115) -/

section
variable {q : QId} {s : State} {bs : List Byte}

theorem flagWritten_eq (hq : s.link.out.r.queue = some q) : flagWritten s =
    let t := if s.link.retryLimit < s.link.retryCount then limitHold q s else setLinkResult .rejected s
    makeClaim q (.unpin .link true)
      (t.withLink { t.link with out := { t.link.out with r := { t.link.out.r with walk := .claimed } } }) := by
  unfold flagWritten
  rw [hq]

theorem deliver_flagWrite (hr : s.link.out.r.unwanted = false) : deliver .linkr .flagWrite bs s = flagWritten s :=
  if_neg (Bool.eq_false_iff.mp hr)

/-- 02 R29: the queue as a hold claim leaves it. -/
def holdClaimed (q : QId) (s : State) : State :=
  if (s.queue q).state = .active then s.setQueue q { s.queue q with state := .held } else s

theorem holdClaimed_rest (q : QId) (s : State) : (holdClaimed q s).link = s.link ∧ (holdClaimed q s).events = s.events := by
  unfold holdClaimed
  split <;> exact ⟨rfl, rfl⟩

theorem limitHold_eq (q : QId) (s : State) : limitHold q s =
    (raise .linkRejectLimit ((holdClaimed q s).withEvents { s.events with rejectQueue := q })).withLink
      { s.link with retryCount := 0, retryRecord := none, last := .limitHold } := by
  obtain ⟨hlink, hevents⟩ := holdClaimed_rest q s
  rw [← hlink, ← hevents]
  rfl

end

/-! ### The writers (04 R71 to R75) -/

section
variable {p : Producer} {s : State} {bs : List Byte}

theorem deliver_writer {u : Purpose} (hu : u = .reservation ∨ u = .burst ∨ u = .linkWord ∨ u = .patch) :
    deliver p.client u bs s = writerConfirmed p u s := by
  rcases hu with rfl | rfl | rfl | rfl <;> cases p <;> rfl

theorem deliver_discard {u : Purpose} (hu : u = .discardHeader ∨ u = .discardLink ∨ u = .discardEndLink) :
    deliver p.client u bs s = discardDelivered p u bs s := by
  rcases hu with rfl | rfl | rfl <;> cases p <;> rfl

theorem producerClaim_queue {q : QId} {c : Claim} (hq : (s.writer p).queue = some q) : producerClaim p c s = makeClaim q c s := by
  unfold producerClaim
  rw [hq]

theorem writerConfirmed_patch {q : QId} {h e : Pos} (hp : phase s p = .committing) (hq : (s.writer p).queue = some q)
    (hh : (s.writer p).header = some h) (he : (s.writer p).write = some e) : writerConfirmed p .patch s
      = makeClaim q (.commit p (patchLength p s) h e) (s.setWriter p { s.writer p with claimed := true }) := by
  simp only [writerConfirmed, if_pos hp, hh, he]
  exact producerClaim_queue (by rwa [writer_setWriter])

theorem writerConfirmed_notCommitting (hp : phase s p ≠ .committing) : writerConfirmed p .patch s = s := if_neg hp

end

/-! ### The discards' reads (02 R35) -/

section
variable {p : Producer} {s : State} {bs : List Byte} {q : QId} {d : Discard}

theorem discardDelivered_running {u : Purpose} (hq : (s.writer p).queue = some q) (hd : (s.queue q).work = .discard d)
    (hp : d.producer = p) : discardDelivered p u bs s = discardConfirmed q d u bs s := by
  simp only [discardDelivered, hq, hd, if_pos hp]

theorem discardConfirmed_tooLong (h : 16384 < (headerOf (s.queue q) bs).length) :
    discardConfirmed q d .discardHeader bs s = faultClaim q s := if_pos h

theorem discardConfirmed_header (h : (headerOf (s.queue q) bs).length ≤ 16384) :
    discardConfirmed q d .discardHeader bs s = s.setQueue q { s.queue q with work := .discard { d with
      stage := .walk, length := (headerOf (s.queue q) bs).length, unfetched := (headerOf (s.queue q) bs).length
      fetch := { d.fetch with offset := d.fetch.offset + headerSize (s.queue q) }
      run := { first := d.fetch.block, prev := none, count := 1 } } } := if_neg h.not_gt

theorem discardConfirmed_link {b : Nat} (hb : classifyLink (totalBlocks s.seq.config) bs = .names b) :
    discardConfirmed q d .discardLink bs s = s.setQueue q { s.queue q with work := .discard { d with
      fetch := { block := b, offset := 4 }
      run := { d.run with prev := some d.fetch.block, count := d.run.count + 1 } } } := by
  simp only [discardConfirmed, hb]
  rfl

theorem discardConfirmed_endLink {b : Nat} (hb : classifyLink (totalBlocks s.seq.config) bs = .names b) :
    discardConfirmed q d .discardEndLink bs s = beginWork q (.discard { d with
      stage := .removal { length := d.length, endPos := d.fetch, next := some { block := b, offset := 4 }
                          run := d.run } }) s := by
  simp only [discardConfirmed, hb]
  rfl

theorem discardConfirmed_noLink {u : Purpose} (hu : u = .discardLink ∨ u = .discardEndLink)
    (hlink : ∀ b, classifyLink (totalBlocks s.seq.config) bs ≠ .names b) :
    discardConfirmed q d u bs s = faultClaim q s := by
  cases hc : classifyLink (totalBlocks s.seq.config) bs with
  | names b => exact absurd hc (hlink b)
  | chainFault | none => rcases hu with rfl | rfl <;> simp only [discardConfirmed, hc]

end

/-! ### The pool (03 R44, R50, R53 to R57) -/

section
variable {s : State} {bs : List Byte}

theorem deliver_fetch (h : s.pool.state = .formatted) : deliver .pool .fetch bs s = fetchConfirmed bs s := by
  simp only [deliver, poolConfirmed, h]

theorem deliver_releaseWrite (h : s.pool.state = .formatted) :
    deliver .pool .releaseWrite bs s = releaseConfirmed s := by
  simp only [deliver, poolConfirmed, h]

theorem deliver_formatWrite (h : s.pool.state = .formatting) : deliver .pool .formatWrite bs s = formatConfirmed s := by
  simp only [deliver, poolConfirmed, h]

theorem deliver_notFormatted (h : s.pool.state ≠ .formatted) :
    deliver .pool .fetch bs s = s ∧ deliver .pool .releaseWrite bs s = s := by
  cases hs : s.pool.state with
  | formatted => exact absurd hs h
  | unformatted | formatting | broken => constructor <;> simp only [deliver, poolConfirmed, hs]

theorem deliver_notFormatting (h : s.pool.state ≠ .formatting) : deliver .pool .formatWrite bs s = s := by
  cases hs : s.pool.state with
  | formatting => exact absurd hs h
  | unformatted | formatted | broken => simp only [deliver, poolConfirmed, hs]

theorem fetchConfirmed_unsound
    (h : fetchSound s.pool.chainCount (classifyLink (totalBlocks s.seq.config) bs) = none) :
    fetchConfirmed bs s = poolFault s := by
  unfold fetchConfirmed
  rw [h]
  split
  case h_1 hnone => cases hnone
  case h_2 => rfl

/-- 03 R44: the pool with the fetched block h on top of the cache, for its earliest waiting allocation where there is one. -/
def fetchedWaiting (s : State) (h : Nat) (next : Option Nat) (p : Producer) (more : List Producer) : State :=
  setStage p (.granted h) (s.withPool { s.pool with
    cache := { block := h, promised := some p } :: s.pool.cache, chainHead := next
    chainCount := s.pool.chainCount - 1, waitingAllocs := more })

theorem deliver_fetch_sound {h : Nat} {next : Option Nat} (hs : s.pool.state = .formatted) (hh : s.pool.chainHead = some h)
    (hnext : fetchSound s.pool.chainCount (classifyLink (totalBlocks s.seq.config) bs) = some next) :
    (s.pool.waitingAllocs = [] → deliver .pool .fetch bs s = s.withPool { s.pool with
        cache := { block := h, promised := none } :: s.pool.cache, chainHead := next
        chainCount := s.pool.chainCount - 1 })
      ∧ ∀ p more, s.pool.waitingAllocs = p :: more →
        deliver .pool .fetch bs s = fetchedWaiting s h next p more := by
  rw [deliver_fetch hs, fetchConfirmed_sound hh hnext]
  exact ⟨fun hw => serveWaiting_none (by rwa [withPool_pool]), fun p more hw =>
    serveWaiting_top (by rwa [withPool_pool]) (by rw [withPool_pool])⟩

theorem fetchSound_names {n b : Nat} (h : 1 < n) : fetchSound n (.names b) = some (some b) := if_pos h

theorem fetchSound_names_last (b : Nat) : fetchSound 1 (.names b) = none := rfl

theorem fetchSound_none_early {n : Nat} (h : 1 < n) : fetchSound n .none = none := if_neg (by omega)

theorem releaseConfirmed_cons {g : Segment} {more : List Segment} (h : s.pool.release = g :: more) :
    releaseConfirmed s = s.withPool { s.pool with
      chainHead := some g.first, chainCount := s.pool.chainCount + g.count, release := more } := by
  unfold releaseConfirmed
  rw [h]

theorem formatConfirmed_goesOn (h : s.pool.progress + 1 ≠ totalBlocks s.seq.config) :
    formatConfirmed s = s.withPool { s.pool with progress := s.pool.progress + 1 } := if_neg h

theorem formatConfirmed_completes (h : s.pool.progress + 1 = totalBlocks s.seq.config) :
    formatConfirmed s = formatCompleted (s.withPool { s.pool with progress := s.pool.progress + 1 }) := if_pos h

end

/-! ### A chain fault at the queue and at its reader (02 R26, 05 R95, 06 R113) -/

/-- 02 R26: the descriptor of a queue with a chain fault. -/
def Queue.chainFaulted (x : Queue) : Queue :=
  { x with state := .faulted, fault := some .chain, pin := none, openRec := none, work := .idle, wait := .none
           claims := [] }

/-- 02 R26: the state with the work behind a dropped handover refused and the open record dropped. -/
def recordDropped (q : QId) (s : State) : State :=
  match (s.queue q).openRec with
  | some p => dropRecord p (workDropped q s)
  | none => workDropped q s

section
variable {q : QId} {s : State}

@[simp] theorem workDropped_queue (q r : QId) (s : State) : (workDropped q s).queue r = s.queue r := by
  unfold workDropped
  split
  · exact removeRefused_queue ..
  all_goals rfl

@[simp] theorem dropRecord_queue (p : Producer) (s : State) (r : QId) : (dropRecord p s).queue r = s.queue r := by
  cases p <;> rfl

@[simp] theorem recordDropped_queue (q r : QId) (s : State) : (recordDropped q s).queue r = s.queue r := by
  unfold recordDropped
  split
  · rw [dropRecord_queue, workDropped_queue]
  · exact workDropped_queue ..

theorem faultClaim_out (h : (s.queue q).state = .off ∨ (s.queue q).state = .faulted) : faultClaim q s = s :=
  if_neg (by rcases h with h | h <;> simp [h])

theorem faultClaim_eq (h : (s.queue q).state = .active ∨ (s.queue q).state = .held) : ∃ x, faultClaim q s
    = raiseQueue .queueFault q (((recordDropped q s).setQueue q (s.queue q).chainFaulted).withPool x) := by
  rw [← recordDropped_queue q q s]
  exact ⟨_, if_pos h⟩

/-- 02 R26: the queue is FAULTED for a chain fault, and its cause is raised. -/
structure ChainFaulted (q : QId) (s t : State) : Prop where
  queue : t.queue q = (s.queue q).chainFaulted
  cause : (Cause.queue .queueFault q).isPending t = true

variable (h : (s.queue q).state = .active ∨ (s.queue q).state = .held)
include h

theorem faultClaim_faults : ChainFaulted q s (faultClaim q s) := by
  obtain ⟨x, hclaim⟩ := faultClaim_eq h
  rw [hclaim]
  constructor
  case queue => exact queue_setQueue_self ..
  case cause =>
    rw [isPending_raiseQueue]
    simp

theorem faultClaim_drops {p : Producer} (hp : (s.queue q).openRec = some p) :
    phase (faultClaim q s) p = .cancelling ∧ ((faultClaim q s).writer p).dropped = true := by
  obtain ⟨x, hclaim⟩ := faultClaim_eq h
  have hdropped : recordDropped q s = dropRecord p (workDropped q s) := by
    unfold recordDropped
    rw [hp]
  rw [hclaim, hdropped]
  cases p with
  | push => exact ⟨rfl, rfl⟩
  | link => exact ⟨rfl, rfl⟩

end

section
variable {q : QId} {s : State}

theorem popChainFault_eq (hq : s.pop.r.queue = some q) : popChainFault s = (faultClaim q s).withPop
    { (faultClaim q s).pop with
      state := .idle, r := (faultClaim q s).pop.r.released, pinAns := none, last := .chainFault } := by
  unfold popChainFault
  rw [hq]

theorem workDropped_popKept (q : QId) (s : State) : popKept (workDropped q s).pop = popKept s.pop := by
  unfold workDropped
  split
  case h_1 c _ _ => cases c <;> rfl
  all_goals rfl

theorem dropRecord_pop (p : Producer) (s : State) : (dropRecord p s).pop = s.pop := by cases p <;> rfl

theorem faultClaim_popKept (h : (s.queue q).state = .active ∨ (s.queue q).state = .held) :
    popKept (faultClaim q s).pop = popKept s.pop := by
  have hdropped : popKept (recordDropped q s).pop = popKept s.pop := by
    unfold recordDropped
    split
    · rw [dropRecord_pop, workDropped_popKept]
    · exact workDropped_popKept ..
  obtain ⟨x, hclaim⟩ := faultClaim_eq h
  rw [hclaim]
  exact hdropped

theorem outChainFault_eq (hq : s.link.out.r.queue = some q) : outChainFault s = (faultClaim q s).withLink
    { retryCleared (faultClaim q s).link with
      out := (faultClaim q s).link.out.resting
      abortDue := s.link.out.state == .streaming && s.link.state == .sending, last := .chainFault } := by
  unfold outChainFault
  rw [hq]

end

/-! ### FORMAT's completion (03 R57, 02 R39) -/

theorem isPending_formatCompleted (s : State) (c : Cause) : c.isPending (formatCompleted s)
    = (decide (c = .global .formatDone) || (!decide (c = .global .refreshOverrun) && (!decide (c = .global .poolFault)
      && c.isPending (reinitQueues (s.withPool { s.pool with
        state := .formatted, chainHead := some 0, chainCount := totalBlocks s.seq.config }))))) := by
  rw [← isPending_clear, ← isPending_clear]
  refine (isPending_raise ..).trans (congrArg _ ?_)
  cases c <;> rfl

/-- Settles O44, client by client. -/
theorem timersStampAndConfirmation : Obligations.TimersStampAndConfirmation := by
  refine ⟨fun s => ?timers, fun code s => ⟨rfl, rfl, fun h => if_pos h⟩, fun k bs s => ?readers,
    fun q bs s hr hq => ?flagWrite, fun p bs s => ?writers, fun bs s => ?pool, fun q s => ?chainFaults, fun s q => ?formatted⟩
  case timers =>
    refine ⟨fun h => next_settle_congr (refreshExpired_stopped h),
      fun h hd => ⟨_, next_settle_congr (refreshExpired_owes h hd), rfl, settle_debt _⟩,
      fun h hd => ⟨_, next_settle_congr (refreshExpired_overrun h hd), rfl, (settle_debt _).trans hd⟩,
      fun h => next_settle_congr (confirmFront_nothing (windowed_nil h)),
      fun e rest ha hu he => next_settle_congr (confirmFront_refresh ((windowed_running ha).trans hu) he),
      fun e rest c r ha hu he => next_settle_congr (confirmFront_request ((windowed_running ha).trans hu) he)⟩
  case readers =>
    intro x link fault
    have hfault : readerChainFault k s = fault := by cases k <;> rfl
    refine ⟨fun u h => deliver_unwanted h u bs, fun h => deliver_payload h,
      fun b h hb => ⟨deliver_link h hb, deliver_endLink h hb⟩,
      fun h hb => ⟨(deliver_noLink h (Or.inl rfl) hb).trans hfault, (deliver_noLink h (Or.inr rfl) hb).trans hfault⟩,
      fun q h hq => ⟨fun hl => ?_, fun hl => ?_⟩⟩
    · exact (deliver_header h hq).trans ((if_pos hl).trans hfault)
    · refine (deliver_header h hq).trans ((if_neg hl.not_gt).trans ?_)
      cases k <;> rfl
  case flagWrite =>
    rw [deliver_flagWrite hr, flagWritten_eq hq]
    refine ⟨fun h => ?_, fun h => ?_⟩
    · rw [if_neg h.not_gt]
      rfl
    · rw [if_pos h, limitHold_eq]
      rfl
  case writers =>
    refine ⟨deliver_writer (.inl rfl), deliver_writer (.inr (.inl rfl)), deliver_writer (.inr (.inr (.inl rfl))),
      fun q h e hp hq hh he => ?_, fun hp => ?_, fun q d hq hd hp => ?_⟩
    · rw [deliver_writer (.inr (.inr (.inr rfl))), writerConfirmed_patch hp hq hh he]
      rfl
    · rw [deliver_writer (.inr (.inr (.inr rfl))), writerConfirmed_notCommitting hp]
    · have hread {u : Purpose} (hu : u = .discardHeader ∨ u = .discardLink ∨ u = .discardEndLink) :
          deliver p.client u bs s = discardConfirmed q d u bs s :=
        (deliver_discard hu).trans (discardDelivered_running hq hd hp)
      rw [hread (.inl rfl), hread (.inr (.inl rfl)), hread (.inr (.inr rfl))]
      exact ⟨discardConfirmed_tooLong, discardConfirmed_header,
        fun b hb => ⟨discardConfirmed_link hb, discardConfirmed_endLink hb⟩,
        fun hb => ⟨discardConfirmed_noLink (.inl rfl) hb, discardConfirmed_noLink (.inr rfl) hb⟩⟩
  case pool =>
    intro x link fetched broken
    have hunsound (hs : x.state = .formatted) {n : Nat} (hn : x.chainCount = n) {k : LinkClass} (hk : link = k)
        (h : fetchSound n k = none) : deliver .pool .fetch bs s = broken :=
      (deliver_fetch hs).trans (fetchConfirmed_unsound (by rwa [← hn, ← hk] at h))
    refine ⟨fun h b hs hh hn hb => ?_, fun h hs hh hn hb => ?_, fun hs hb => hunsound hs rfl hb rfl,
      fun b hs hn hb => hunsound hs hn hb (fetchSound_names_last b),
      fun hs hn hb => hunsound hs rfl hb (fetchSound_none_early hn),
      fun g more hs hg => (deliver_releaseWrite hs).trans (releaseConfirmed_cons hg),
      fun hs hp => (deliver_formatWrite hs).trans (formatConfirmed_goesOn hp),
      fun hs hp => (deliver_formatWrite hs).trans (formatConfirmed_completes hp), deliver_notFormatted,
      deliver_notFormatting⟩
    · exact deliver_fetch_sound hs hh ((congrArg _ hb).trans (fetchSound_names hn))
    · exact deliver_fetch_sound hs hh ((congrArg₂ fetchSound hn hb).trans rfl)
  case chainFaults =>
    refine ⟨faultClaim_out, fun h => ?_⟩
    have hfaults := faultClaim_faults h
    refine ⟨⟨hfaults.queue, hfaults.cause⟩, fun p hp => faultClaim_drops h hp, fun hq => ?_, fun hq => ?_⟩
    · have hkept := faultClaim_popKept h
      dsimp only
      rw [popChainFault_eq hq]
      exact ⟨⟨hfaults.queue, hfaults.cause⟩, rfl, rfl, rfl, rfl, congrArg Prod.fst hkept, congrArg Prod.snd hkept⟩
    · dsimp only
      rw [outChainFault_eq hq]
      exact ⟨⟨hfaults.queue, hfaults.cause⟩, rfl, rfl, rfl, rfl, (Bool.decide_and ..).symm⟩
  case formatted =>
    intro t x
    have hqueue : t.queue q = x.reinit := reinitQueues_queue (s.withPool _) q
    refine ⟨rfl, hqueue, rfl, rfl, ?_, ?_, ?_, ?_, ?_⟩
    all_goals exact (isPending_formatCompleted ..).trans (by rw [isPending_reinitQueues]; rfl)

end Sys2Proof.Machine
end
